-- ==== Sys2Proof/Word.lean ====
section
/-! DEFINITION. The byte, the code spaces of the block and the byte order of the spec's own 32-bit word. -/

namespace Sys2Proof

/-- A byte: the one width of memory, of the wire and of the stimulus script (20_memory.md R60, R66). -/
abbrev Byte := BitVec 8

/-- The code spaces of 30_encoding.md R90. The spec tells them apart by where a word is read, never by its value: the
same byte `0x41` is ENV_COLIN's tag in a script and the acknowledgement on the wire (log 3). -/
inductive CodeSpace where
  /-- Format EV8 with its operand bytes: the stimulus script (R102, R104). -/
  | script
  /-- Format H32: a host operation word (R98). -/
  | host
  /-- Format W8: a command byte, display chip to input chip (R91). -/
  | command
  /-- Format WA: the byte the initiator takes in slot 1 (R94). -/
  | ack
  /-- Format WD: a byte the initiator takes in a data slot (R95). -/
  | colData
  /-- Format KC: a key code handed to the host (R100). -/
  | keyCode
  /-- Format LC: the class of the line in progress (R101). -/
  | lineClass
  deriving DecidableEq, Repr

/-- The four bytes of an H32 word, most significant first (30_encoding.md R102, row HOST). -/
def wordBytes (w : BitVec 32) : List Byte :=
  [w.extractLsb' 24 8, w.extractLsb' 16 8, w.extractLsb' 8 8, w.extractLsb' 0 8]

/-- The H32 word whose bytes, most significant first, are `b3 b2 b1 b0` (30_encoding.md R102). -/
def wordOfBytes (b3 b2 b1 b0 : Byte) : BitVec 32 := b3 ++ b2 ++ b1 ++ b0

end Sys2Proof
end

