-- ==== Sys2Proof/Config.lean ====
section
/-! DEFINITION. The configuration record CFG of 00_scope.md R6, the profiles of R8, the constraints of R7, and the free
values of 93_implementation_defined.md. -/

namespace Sys2Proof

/-- Which chip an instance is (00_scope.md R6, `ROLE`). -/
inductive Role where
  /-- One chip: video and local keys. -/
  | single
  /-- The display chip of a two-chip system, its input chip attached (log 13). -/
  | display
  /-- The input chip of a two-chip system: the responder only. -/
  | input
  deriving DecidableEq, Repr

/-- The serialiser kind (00_scope.md R6, `SER_KIND`). -/
inductive SerKind where
  /-- A peripheral reads the row while the line is drawn. -/
  | spi
  /-- The interrupt handler shifts the row out itself. -/
  | bitbang
  deriving DecidableEq, Repr

/-- The buffer layout kind (00_scope.md R6, `LAYOUT`). -/
inductive Layout where
  | gfx1
  | gfx8
  | attr
  | text
  deriving DecidableEq, Repr

/-- The two row commands that `CMDSEQ` chooses from (00_scope.md R6). -/
inductive RowCmd where
  | rowHigh
  | rowLow
  deriving DecidableEq, Repr

/-- One video profile: what `MODE` selects (00_scope.md R6, 10_state.md R21). -/
structure VideoProfile where
  /-- Vertical line counts and their total. -/
  vActive : Nat
  vFp : Nat
  vSync : Nat
  vBp : Nat
  vTotal : Nat
  /-- Horizontal counts and pixel clock: informative, no rule reads them (R6). -/
  hActive : Nat
  hFp : Nat
  hSync : Nat
  hBp : Nat
  hTotal : Nat
  pixclkHz : Nat
  layout : Layout
  /-- Frame buffer bytes per row, rows, total, and raster lines per row. -/
  fbPitch : Nat
  fbRows : Nat
  fbSize : Nat
  lpr : Nat
  /-- Attribute buffer bytes per row, rows, total, raster lines per row, frame buffer bytes per attribute byte. -/
  atPitch : Nat
  atRows : Nat
  atSize : Nat
  lpar : Nat
  cellW : Nat
  /-- Text layout: glyph lines per character, raster lines per glyph line, and the font bytes in the order of
  20_memory.md R65 (`FN[code * CHAR_H + gl]`). -/
  charH : Nat
  lpg : Nat
  font : List Byte
  deriving DecidableEq, Repr

/-- The byte values of the link's codes, all OPEN (00_scope.md R6; 30_encoding.md R92, R94). -/
structure WireCodes where
  cmdSync : Byte
  cmdRowHigh : Byte
  cmdRowLow : Byte
  rspSyncAck : Byte
  deriving DecidableEq, Repr

/-- The configuration record CFG (00_scope.md R6). `MODE` indexes `profiles`. -/
structure Cfg where
  role : Role
  serKind : SerKind
  profiles : List VideoProfile
  nkey : Nat
  keycntPress : Byte
  keycntRepeat : Byte
  keycntRel : Byte
  queueCap : Nat
  nrow : Nat
  ncol : Nat
  /-- `CMDSEQ[r]`: the command used to scan row `r`. -/
  cmdSeq : List RowCmd
  codes : WireCodes
  /-- `REMAP[b]` at position `b`, 256 entries. -/
  remap : List Byte
  /-- `KEYMAP(r, c)` at position `r * NCOL + (c - 1)`. -/
  keymap : List Nat
  /-- The raw column pins the variant has, bit `j` for pin `j` (10_state.md R49): a parameter of the model's own (log 31). -/
  colPins : BitVec 10
  deriving DecidableEq, Repr

/-- `FRAME_W`, the width of FrameCounter in bits (00_scope.md R6, decision D3). -/
def frameW : Nat := 32

/-- `QUEUE_SLOTS = QUEUE_CAP + 1` (00_scope.md R6). -/
def Cfg.queueSlots (c : Cfg) : Nat := c.queueCap + 1

/-- What triggers the debounce scan step (00_scope.md R6, `KEY_SCAN_SRC`): fixed by `ROLE`. -/
inductive KeyScanSrc where
  | keyTick
  | slotScan
  | none
  deriving DecidableEq, Repr

/-- `KEY_SCAN_SRC` of a configuration (00_scope.md R6). -/
def Cfg.keyScanSrc (c : Cfg) : KeyScanSrc :=
  match c.role with
  | .single => .keyTick
  | .display => .slotScan
  | .input => .none

/-- A byte that no rule constrains: `draw(byte)` of 00_scope.md R10, used by 20_memory.md R80. The `n`-th draw of a run
is `freeByte n`; nothing in Lean can evaluate it (log 10). -/
opaque freeByte : Nat → BitVec 8

/-- The vertical and buffer constraints of 00_scope.md R7 and R124 for one profile, and the sizes 20_memory.md R60 gives AT
and FN by layout (log 15). -/
def VideoProfile.legal (p : VideoProfile) : Bool :=
  p.vTotal == p.vActive + p.vFp + p.vSync + p.vBp && decide (p.vTotal ≤ 65535)
    && decide (0 < p.vActive) && decide (0 < p.vFp) && decide (0 < p.vSync) && decide (0 < p.vBp)
    && p.fbSize == p.fbPitch * p.fbRows && decide (0 < p.fbPitch) && decide (0 < p.lpr)
    && decide (p.fbRows * p.lpr ≤ p.vActive)
    && (match p.layout with
        | .gfx1 => p.atSize == 0 && p.font.isEmpty
        | .gfx8 => p.atSize == 0 && p.font.isEmpty
        | .attr => p.font.isEmpty && p.atSize == p.atPitch * p.atRows && decide (0 < p.lpar) && decide (0 < p.cellW)
            && decide (p.fbRows * p.lpr ≤ p.atRows * p.lpar) && decide (p.fbPitch ≤ p.atPitch * p.cellW)
        | .text => p.atSize == 0 && decide (0 < p.charH) && decide (0 < p.lpg) && p.lpr == p.charH * p.lpg
            && p.font.length == 256 * p.charH)

/-- The command bytes are pairwise distinct (00_scope.md R7). -/
def WireCodes.distinct (k : WireCodes) : Bool :=
  k.cmdSync != k.cmdRowHigh && k.cmdSync != k.cmdRowLow && k.cmdRowHigh != k.cmdRowLow

/-- The constraints of 00_scope.md R7 on the fields only `ROLE = DISPLAY` has. -/
def Cfg.legalDisplay (c : Cfg) : Bool :=
  c.profiles.all (fun p => decide (2 * c.nrow + 3 ≤ p.vBp))
    && decide (7 ≤ c.ncol) && decide (c.ncol ≤ 10)
    && c.nkey == c.nrow * c.ncol
    && c.cmdSeq.length == c.nrow
    && c.remap.length == 256 && c.remap.all (fun b => decide (b.toNat < 32))
    && c.keymap.length == c.nrow * c.ncol && decide c.keymap.Nodup
    && c.keymap.all (fun k => decide (k < c.nkey))

/-- The variant has as many raw column pins as logical columns (log 31). -/
def Cfg.pinsOk (c : Cfg) : Bool := ((List.range 10).filter (fun j => c.colPins.getLsbD j)).length == c.ncol

/-- A legal CFG (00_scope.md R7; 93_implementation_defined.md U13). `ROLE = INPUT` is the same two-chip system seen from
its other chip, so its link bytes are distinct too. -/
def Cfg.legal (c : Cfg) : Bool :=
  !c.profiles.isEmpty && decide (c.profiles.length ≤ 256) && c.profiles.all VideoProfile.legal
    && c.keycntPress != 0 && c.keycntRepeat != 0 && c.keycntRel != 0
    && decide (1 ≤ c.queueCap) && decide (1 ≤ c.nkey) && decide (c.nkey ≤ 255)
    && (match c.role with
        | .single => true
        | .display => c.codes.distinct && c.legalDisplay && c.pinsOk
        | .input => c.codes.distinct && c.pinsOk)

namespace Config

/-- Profile `VGA480` with layout `G160x120` (00_scope.md R8). The three horizontal porch and sync counts are general
knowledge (93_implementation_defined.md G1) and are read by nothing (log 20). R8 gives it no attribute and no text parameters,
which R6 leaves OPEN: that they are 0, and the font empty, is the model's choice (DESIGN CHOICE, log 32); AT and FN have size
0 in this layout (20_memory.md R60). -/
def vga480 : VideoProfile where
  vActive := 480
  vFp := 10
  vSync := 2
  vBp := 33
  vTotal := 525
  hActive := 640
  hFp := 16
  hSync := 96
  hBp := 48
  hTotal := 800
  pixclkHz := 25175000
  layout := .gfx1
  fbPitch := 20
  fbRows := 120
  fbSize := 2400
  lpr := 4
  atPitch := 0
  atRows := 0
  atSize := 0
  lpar := 0
  cellW := 0
  charH := 0
  lpg := 0
  font := []

/-- Profile `TEST60`, the spec's own small profile for test vectors (00_scope.md R8, decision D5). R8 gives it no
horizontal counts and no pixel clock: that it has those of `VGA480` is the model's choice (DESIGN CHOICE, log 25), and
nothing reads them. Its attribute and text parameters are 0 in the same way (log 32). -/
def test60 : VideoProfile :=
  { vga480 with
    vActive := 40, vFp := 4, vSync := 2, vBp := 14, vTotal := 60, fbPitch := 2, fbRows := 10, fbSize := 20, lpr := 4 }

/-- The default byte values of the link (30_encoding.md R92, R94; decision D12). -/
def codes : WireCodes where
  cmdSync := 0x53
  cmdRowHigh := 0x48
  cmdRowLow := 0x4C
  rspSyncAck := 0x41

/-- One entry of the default remap table: the low five bits inverted and reversed, bits 7:5 ignored
(42_remote_io_protocol.md R190). -/
def remapByte (b : Byte) : Byte :=
  0#3 ++ (BitVec.ofBool (!b.getLsbD 0) ++ BitVec.ofBool (!b.getLsbD 1) ++ BitVec.ofBool (!b.getLsbD 2)
    ++ BitVec.ofBool (!b.getLsbD 3) ++ BitVec.ofBool (!b.getLsbD 4))

/-- The default remap table (42_remote_io_protocol.md R190; decision D15). -/
def remap : List Byte := (List.range 256).map (fun n => remapByte (BitVec.ofNat 8 n))

/-- The configuration of the machine `State.reset` starts from (log 1): a two-chip system with the source's one profile
and the defaults and examples of 00_scope.md R6. -/
def default : Cfg where
  role := .display
  serKind := .spi
  profiles := [vga480]
  nkey := 20
  keycntPress := 5
  keycntRepeat := 2
  keycntRel := 3
  queueCap := 4
  nrow := 2
  ncol := 10
  cmdSeq := [.rowLow, .rowHigh]
  codes := codes
  remap := remap
  keymap := List.range 20
  colPins := 0x3FF

end Config

end Sys2Proof
end

