-- ==== Sys2Proof/Syntax.lean ====
section
/-! DEFINITION. The operations of the block: one constructor per row of spec/opcode_table.json, in the table's order. -/

namespace Sys2Proof

/-- An operation (00_scope.md R2 maps "instruction" to it). -/
inductive Instr where
  /-- Wire command SYNC at the responder (42_remote_io_protocol.md R184). -/
  | sync
  /-- Wire command ROW_HIGH at the responder (R185). -/
  | rowHigh
  /-- Wire command ROW_LOW at the responder (R186). -/
  | rowLow
  /-- The acknowledgement byte, taken by the initiator in slot 1 (30_encoding.md R94). -/
  | syncAck
  /-- A column data byte, taken by the initiator in a data slot; `raw` is `raw[4:0]` (30_encoding.md R95). -/
  | coldata (raw : BitVec 5)
  | keyGet
  | joyGet
  | keyPressed (code : Byte)
  | keyFlush
  | waitVSync
  | dispIsVSync
  | dispInit (m : Byte)
  | dispTerm
  | keyInit
  | keyTerm
  | rdScanline
  | rdFrame
  | fbWrite (a : BitVec 16) (v : Byte)
  | fbRead (a : BitVec 16)
  | atWrite (a : BitVec 16) (v : Byte)
  | atRead (a : BitVec 16)
  /-- One scanline interrupt and its handler (40_clock_serializer_renderer.md R121). -/
  | tick
  /-- The serialiser reads one byte (R127 to R130). -/
  | serRead
  /-- The lower-rate key tick (43_key_debouncer.md R224). -/
  | keyTick
  | dlvD2I
  | dlvI2D
  | dropD2I
  | dropI2D
  | garbleD2I (x : Byte)
  | garbleI2D (x : Byte)
  /-- The responder consumes one delivered byte (42_remote_io_protocol.md R183). -/
  | rspStep
  /-- The environment sets key input `index` (10_state.md R49). -/
  | envKeyIn (index : Byte) (value : Bool)
  /-- The environment sets the raw column pins (10_state.md R49). -/
  | envColIn (v : BitVec 10)
  /-- A host operation wrapped in tag `0x80`; `w` is its H32 word (30_encoding.md R102). -/
  | host (w : BitVec 32)
  /-- The key code a pop of an empty queue returns (30_encoding.md R100). -/
  | noKey
  /-- The line class codes: what the handler does on a line of the class (30_encoding.md R101). -/
  | lcActive
  | lcFront
  | lcVSync
  | lcBack
  deriving DecidableEq, Repr

end Sys2Proof
end

