-- ==== Sys2Proof/WellFormed.lean ====
section
/-! DEFINITION. Which terms of Instr spell an operation: the reserved-field rules of 30_encoding.md R99. Every other bound
on an operand (a key index, an offset, a mode) depends on CFG or on the state and is checked by the meaning. -/

namespace Sys2Proof

/-- Field `sel[31:28]` of an H32 word (30_encoding.md R90). -/
def h32Sel (w : BitVec 32) : BitVec 4 := w.extractLsb' 28 4

/-- Field `rsv[27:24]`. -/
def h32Rsv (w : BitVec 32) : BitVec 4 := w.extractLsb' 24 4

/-- Field `addr[23:8]`. -/
def h32Addr (w : BitVec 32) : BitVec 16 := w.extractLsb' 8 16

/-- Field `data[7:0]`. -/
def h32Data (w : BitVec 32) : Byte := w.extractLsb' 0 8

/-- The operations of 30_encoding.md R98 that use the `addr` field: FbWrite, FbRead, AtWrite, AtRead. -/
def selUsesAddr (sel : BitVec 4) : Bool := decide (12 ≤ sel.toNat)

/-- The operations of 30_encoding.md R98 that use the `data` field: KeyPressed, DispInit, FbWrite, AtWrite. -/
def selUsesData (sel : BitVec 4) : Bool := sel == 2 || sel == 6 || sel == 12 || sel == 14

/-- An H32 word that spells an operation: `rsv` is 0 and so is every field its operation does not use
(30_encoding.md R99). -/
def h32Legal (w : BitVec 32) : Bool :=
  h32Rsv w == 0 && (selUsesAddr (h32Sel w) || h32Addr w == 0) && (selUsesData (h32Sel w) || h32Data w == 0)

/-- A well-formed operation: only HOST carries a word that may be reserved (30_encoding.md R99). -/
def Instr.wellFormed : Instr → Bool
  | .sync => true
  | .rowHigh => true
  | .rowLow => true
  | .syncAck => true
  | .coldata _ => true
  | .keyGet => true
  | .joyGet => true
  | .keyPressed _ => true
  | .keyFlush => true
  | .waitVSync => true
  | .dispIsVSync => true
  | .dispInit _ => true
  | .dispTerm => true
  | .keyInit => true
  | .keyTerm => true
  | .rdScanline => true
  | .rdFrame => true
  | .fbWrite _ _ => true
  | .fbRead _ => true
  | .atWrite _ _ => true
  | .atRead _ => true
  | .tick => true
  | .serRead => true
  | .keyTick => true
  | .dlvD2I => true
  | .dlvI2D => true
  | .dropD2I => true
  | .dropI2D => true
  | .garbleD2I _ => true
  | .garbleI2D _ => true
  | .rspStep => true
  | .envKeyIn _ _ => true
  | .envColIn _ => true
  | .host w => h32Legal w
  | .noKey => true
  | .lcActive => true
  | .lcFront => true
  | .lcVSync => true
  | .lcBack => true

end Sys2Proof
end

