-- ==== Sys2Proof/Decode.lean ====
section
/-! DEFINITION. The decoder of every code space of 30_encoding.md R90, total on any bytes and refusing by name, and after it
the encoder. -/

namespace Sys2Proof

/-- Why bytes spell no operation (30_encoding.md R93, R99, R102; 93_implementation_defined.md U6). -/
inductive Reject where
  /-- Nothing is left to read: no agent has a scheduled step. -/
  | endOfScript
  /-- An operation's operand bytes are missing. -/
  | truncated
  /-- An EV8 tag that R102 does not list. -/
  | reservedTag (tag : Byte)
  /-- An H32 word that breaks R99. -/
  | reservedHostWord (w : BitVec 32)
  /-- An operand byte of ENV_KEYIN or ENV_COLIN outside the values R102 lists for it: that such a byte is refused is the
  model's choice (DESIGN CHOICE, log 27). -/
  | reservedOperand (b : Byte)
  /-- A byte of a one-byte code space that no row of the table spells: refusing it is the model's choice (DESIGN CHOICE,
  log 34), and for a data byte log 4's. -/
  | reservedByte (b : Byte)
  deriving DecidableEq, Repr

/-- What a decoder answers: the operation and the bytes left over, or a reason. -/
abbrev Decoded := Except Reject (Instr × List Byte)

/-- The host operation a selector names, its operands taken from the fields (30_encoding.md R98). -/
def hostOpOf (sel : BitVec 4) (a : BitVec 16) (d : Byte) : Instr :=
  match sel.toNat with
  | 0 => .keyGet
  | 1 => .joyGet
  | 2 => .keyPressed d
  | 3 => .keyFlush
  | 4 => .waitVSync
  | 5 => .dispIsVSync
  | 6 => .dispInit d
  | 7 => .dispTerm
  | 8 => .keyInit
  | 9 => .keyTerm
  | 10 => .rdScanline
  | 11 => .rdFrame
  | 12 => .fbWrite a d
  | 13 => .fbRead a
  | 14 => .atWrite a d
  | _ => .atRead a

/-- The host operation an H32 word spells (30_encoding.md R98, R99). -/
def decodeH32 (w : BitVec 32) : Option Instr :=
  if h32Legal w then some (hostOpOf (h32Sel w) (h32Addr w) (h32Data w)) else none

/-- Four bytes read as an H32 word, most significant first (30_encoding.md R102). -/
def decodeHostBytes : List Byte → Decoded
  | b3 :: b2 :: b1 :: b0 :: rest =>
    match decodeH32 (wordOfBytes b3 b2 b1 b0) with
    | some i => .ok (i, rest)
    | none => .error (.reservedHostWord (wordOfBytes b3 b2 b1 b0))
  | [] => .error .endOfScript
  | _ => .error .truncated

/-- The operand of HOST: an H32 word that spells an operation (30_encoding.md R102). -/
def decodeHostEvent : List Byte → Decoded
  | b3 :: b2 :: b1 :: b0 :: rest =>
    if h32Legal (wordOfBytes b3 b2 b1 b0) then .ok (.host (wordOfBytes b3 b2 b1 b0), rest)
    else .error (.reservedHostWord (wordOfBytes b3 b2 b1 b0))
  | _ => .error .truncated

/-- The operand of GARBLE_D2I and GARBLE_I2D: the new byte (30_encoding.md R102). -/
def decodeGarble (mk : Byte → Instr) : List Byte → Decoded
  | x :: rest => .ok (mk x, rest)
  | [] => .error .truncated

/-- The operands of ENV_KEYIN: key index, then 0 or 1 (30_encoding.md R102). -/
def decodeKeyIn : List Byte → Decoded
  | i :: v :: rest =>
    if v = 0 then .ok (.envKeyIn i false, rest)
    else if v = 1 then .ok (.envKeyIn i true, rest)
    else .error (.reservedOperand v)
  | _ => .error .truncated

/-- The operands of ENV_COLIN: `COLIN[9:8]` in the low bits of the first byte, then `COLIN[7:0]` (30_encoding.md R102). A
first byte whose bits 7:2 are not 0 is refused (DESIGN CHOICE, log 27). -/
def decodeColIn : List Byte → Decoded
  | hi :: lo :: rest =>
    if hi.extractLsb' 2 6 = 0 then .ok (.envColIn (hi.extractLsb' 0 2 ++ lo), rest)
    else .error (.reservedOperand hi)
  | _ => .error .truncated

/-- One statement of a stimulus script (30_encoding.md R102). -/
def decodeScript : List Byte → Decoded
  | [] => .error .endOfScript
  | tag :: rest =>
    match tag.toNat with
    | 0x10 => .ok (.tick, rest)
    | 0x11 => .ok (.serRead, rest)
    | 0x12 => .ok (.keyTick, rest)
    | 0x20 => .ok (.dlvD2I, rest)
    | 0x21 => .ok (.dlvI2D, rest)
    | 0x22 => .ok (.dropD2I, rest)
    | 0x23 => .ok (.dropI2D, rest)
    | 0x24 => decodeGarble .garbleD2I rest
    | 0x25 => decodeGarble .garbleI2D rest
    | 0x30 => .ok (.rspStep, rest)
    | 0x40 => decodeKeyIn rest
    | 0x41 => decodeColIn rest
    | 0x80 => decodeHostEvent rest
    | _ => .error (.reservedTag tag)

/-- A command byte (30_encoding.md R91 to R93). -/
def decodeCommand (k : WireCodes) (b : Byte) : Option Instr :=
  if b = k.cmdSync then some .sync
  else if b = k.cmdRowHigh then some .rowHigh
  else if b = k.cmdRowLow then some .rowLow
  else none

/-- The acknowledgement byte (30_encoding.md R94). -/
def decodeAck (k : WireCodes) (b : Byte) : Option Instr :=
  if b = k.rspSyncAck then some .syncAck else none

/-- A column data byte as it is sent: bits 7:5 are 0 (30_encoding.md R90, R95). -/
def decodeColData (b : Byte) : Option Instr :=
  if b.extractLsb' 5 3 = 0 then some (.coldata (b.extractLsb' 0 5)) else none

/-- The one key code the table lists: NOKEY (30_encoding.md R100). -/
def decodeKeyCode (b : Byte) : Option Instr :=
  if b = 0 then some .noKey else none

/-- A line class code, two bits in a byte (30_encoding.md R101). -/
def decodeLineClass (b : Byte) : Option Instr :=
  match b.toNat with
  | 0 => some .lcActive
  | 1 => some .lcFront
  | 2 => some .lcVSync
  | 3 => some .lcBack
  | _ => none

/-- One byte of a one-byte code space. DESIGN CHOICE (log 34; for a data byte log 4), safe: a byte that no row of the table
spells is refused here, where only bare rows are read. On the link 30_encoding.md R93 and 42_remote_io_protocol.md R187 have
the responder consume and ignore a reserved command byte (`rspByte`), and slot 1 takes any byte (R176, `pOdd`). -/
def decodeByteWith (f : Byte → Option Instr) : List Byte → Decoded
  | [] => .error .endOfScript
  | b :: rest =>
    match f b with
    | some i => .ok (i, rest)
    | none => .error (.reservedByte b)

/-- The operation at the front of `bs`, read in code space `sp` (30_encoding.md R90: the space decides the format). -/
def decodeIn (k : WireCodes) (sp : CodeSpace) (bs : List Byte) : Decoded :=
  match sp with
  | .script => decodeScript bs
  | .host => decodeHostBytes bs
  | .command => decodeByteWith (decodeCommand k) bs
  | .ack => decodeByteWith (decodeAck k) bs
  | .colData => decodeByteWith decodeColData bs
  | .keyCode => decodeByteWith decodeKeyCode bs
  | .lineClass => decodeByteWith decodeLineClass bs

/-- The code space of an operation (30_encoding.md R90, the table's `format`). -/
def Instr.space : Instr → CodeSpace
  | .sync => .command
  | .rowHigh => .command
  | .rowLow => .command
  | .syncAck => .ack
  | .coldata _ => .colData
  | .keyGet => .host
  | .joyGet => .host
  | .keyPressed _ => .host
  | .keyFlush => .host
  | .waitVSync => .host
  | .dispIsVSync => .host
  | .dispInit _ => .host
  | .dispTerm => .host
  | .keyInit => .host
  | .keyTerm => .host
  | .rdScanline => .host
  | .rdFrame => .host
  | .fbWrite _ _ => .host
  | .fbRead _ => .host
  | .atWrite _ _ => .host
  | .atRead _ => .host
  | .tick => .script
  | .serRead => .script
  | .keyTick => .script
  | .dlvD2I => .script
  | .dlvI2D => .script
  | .dropD2I => .script
  | .dropI2D => .script
  | .garbleD2I _ => .script
  | .garbleI2D _ => .script
  | .rspStep => .script
  | .envKeyIn _ _ => .script
  | .envColIn _ => .script
  | .host _ => .script
  | .noKey => .keyCode
  | .lcActive => .lineClass
  | .lcFront => .lineClass
  | .lcVSync => .lineClass
  | .lcBack => .lineClass

/-- An H32 word from its fields, `rsv` 0 (30_encoding.md R90). -/
def h32Word (sel : BitVec 4) (a : BitVec 16) (d : Byte) : BitVec 32 := sel ++ 0#4 ++ a ++ d

/-- The bytes of an operation in its own code space, the link's byte values taken from `k` (30_encoding.md R90 to R102). -/
def encode (k : WireCodes) : Instr → List Byte
  | .sync => [k.cmdSync]
  | .rowHigh => [k.cmdRowHigh]
  | .rowLow => [k.cmdRowLow]
  | .syncAck => [k.rspSyncAck]
  | .coldata raw => [0#3 ++ raw]
  | .keyGet => wordBytes (h32Word 0x0 0 0)
  | .joyGet => wordBytes (h32Word 0x1 0 0)
  | .keyPressed code => wordBytes (h32Word 0x2 0 code)
  | .keyFlush => wordBytes (h32Word 0x3 0 0)
  | .waitVSync => wordBytes (h32Word 0x4 0 0)
  | .dispIsVSync => wordBytes (h32Word 0x5 0 0)
  | .dispInit m => wordBytes (h32Word 0x6 0 m)
  | .dispTerm => wordBytes (h32Word 0x7 0 0)
  | .keyInit => wordBytes (h32Word 0x8 0 0)
  | .keyTerm => wordBytes (h32Word 0x9 0 0)
  | .rdScanline => wordBytes (h32Word 0xA 0 0)
  | .rdFrame => wordBytes (h32Word 0xB 0 0)
  | .fbWrite a v => wordBytes (h32Word 0xC a v)
  | .fbRead a => wordBytes (h32Word 0xD a 0)
  | .atWrite a v => wordBytes (h32Word 0xE a v)
  | .atRead a => wordBytes (h32Word 0xF a 0)
  | .tick => [0x10]
  | .serRead => [0x11]
  | .keyTick => [0x12]
  | .dlvD2I => [0x20]
  | .dlvI2D => [0x21]
  | .dropD2I => [0x22]
  | .dropI2D => [0x23]
  | .garbleD2I x => [0x24, x]
  | .garbleI2D x => [0x25, x]
  | .rspStep => [0x30]
  | .envKeyIn i v => [0x40, i, if v then 1 else 0]
  | .envColIn v => [0x41, 0#6 ++ v.extractLsb' 8 2, v.extractLsb' 0 8]
  | .host w => 0x80 :: wordBytes w
  | .noKey => [0x00]
  | .lcActive => [0x00]
  | .lcFront => [0x01]
  | .lcVSync => [0x02]
  | .lcBack => [0x03]

/-- The encoding of a script: the encodings of its statements, one after the other (30_encoding.md R104). -/
def encodeScript (k : WireCodes) : List Instr → List Byte
  | [] => []
  | i :: is => encode k i ++ encodeScript k is

/-- The bytes of an instruction whose bits are `w`, numbered as spec/opcode_table.json numbers them: a 32-bit row is one
H32 word, stored most significant byte first; any other row is a byte and the operand bytes after it, of which the table
gives none, all 0 up to the longest statement, five bytes. -/
def tableBytes (nbits w : Nat) : List Byte :=
  if nbits = 32 then wordBytes (BitVec.ofNat 32 w)
  else (List.range 5).map (fun n => BitVec.ofNat 8 (w >>> (8 * n)))

/-- The code space a table row of `nbits` bits and word `w` is read in. The byte-wide rows share values between code
spaces (`0x00` is NOKEY, COLDATA and LC_ACTIVE, `0x41` is ENV_COLIN and SYNC_ACK): the script is tried first, then the
commands, the acknowledgement, NOKEY, the line classes and last the data bytes (log 4). -/
def tableSpace (nbits w : Nat) : CodeSpace :=
  if nbits = 32 then .host
  else if nbits < 8 then .lineClass
  else if nbits ≠ 8 then .script
  else
    match w % 256 with
    | 0x10 | 0x11 | 0x12 | 0x20 | 0x21 | 0x22 | 0x23 | 0x24 | 0x25 | 0x30 | 0x40 | 0x41 | 0x80 => .script
    | 0x53 | 0x48 | 0x4C => .command
    | 0x00 => .keyCode
    | 0x01 | 0x02 | 0x03 => .lineClass
    | b => if b < 0x20 then .colData else .script

/-- The operation the decoder reads from an instruction whose bits are `w` (log 4). -/
def decodeTableWord (nbits w : Nat) : Option Instr :=
  match decodeIn Config.codes (tableSpace nbits w) (tableBytes nbits w) with
  | .ok (i, _) => some i
  | .error _ => none

end Sys2Proof
end

