-- ==== Sys2Proof/Machine/State.lean ====
section
/-! DEFINITION. The state of the block as plain data (10_state.md R20 to R54, 20_memory.md R60 to R65), the reasons a step
can stop, and the machine after reset. -/

namespace Sys2Proof.Machine

open Sys2Proof

/-- The classes of a scanline, in the order of a frame (30_encoding.md R101). -/
inductive LineClass where
  | active
  | front
  | vsync
  | back
  deriving DecidableEq, Repr

/-- The pixels an element is, in the order they are shifted out, the leftmost first (20_memory.md R66; 30_encoding.md
R107). -/
inductive Pixels where
  /-- Eight one-bit pixels: layouts GFX1, ATTR and TEXT. -/
  | bits (l : List Bool)
  /-- One pixel of a byte's value: layout GFX8. -/
  | level (b : Byte)
  deriving DecidableEq, Repr

/-- An event of the output trace OUT (10_state.md R51). -/
inductive TraceEvent where
  /-- `LINE(FR, SL, class, VSYNC_OUT)`. -/
  | line (fr : BitVec 32) (sl : BitVec 16) (cls : LineClass) (vsync : Bool)
  /-- `PIX(line, idx, value, attr)`, with the pixels that `value` is (log 30). -/
  | pix (line : BitVec 16) (idx : Nat) (value : Byte) (attr : Option Byte) (pixels : Pixels)
  /-- `ROWSEL(v)`. -/
  | rowsel (v : Bool)
  deriving DecidableEq, Repr

/-- `SER`, the PixelSerializer (10_state.md R25). -/
structure Serialiser where
  busy : Bool
  line : BitVec 16
  base : Nat
  len : Nat
  idx : Nat
  abase : Nat
  gl : Nat
  deriving DecidableEq, Repr

/-- Group V: the display (10_state.md R21 to R26). -/
structure Video where
  dispEn : Bool
  mode : Byte
  sl : BitVec 16
  fr : BitVec 32
  tickPend : Bool
  ser : Serialiser
  vsyncOut : Bool
  deriving DecidableEq, Repr

/-- One KeyState entry `KS[i]` (10_state.md R28). -/
structure KeyState where
  rel : Byte
  rpt : Byte
  deriving DecidableEq, Repr

/-- Group K: the keys and the queue offsets (10_state.md R27 to R29). -/
structure Keys where
  keyEn : Bool
  ks : List KeyState
  qWr : Nat
  qRd : Nat
  deriving DecidableEq, Repr

/-- `SESS.lastcmd` (10_state.md R32). -/
inductive LastCmd where
  | none
  | sync
  | rowHigh
  | rowLow
  deriving DecidableEq, Repr

/-- `SESS`, the protocol session (10_state.md R32). `got` is in 0 to 2, but for repeated bare rows (log 35). -/
structure Session where
  lastcmd : LastCmd
  got : Nat
  row : Nat
  deriving DecidableEq, Repr

/-- Group P: the initiator (10_state.md R30 to R33, R48). A row of MATRIX is an NCOL-bit mask held in ten bits. -/
structure Initiator where
  matrix : List (BitVec 10)
  b0 : Byte
  b1 : Byte
  sess : Session
  linkOk : Bool
  rxqD : List Byte
  deriving DecidableEq, Repr

/-- Group R: the responder (10_state.md R34, R48). -/
structure Responder where
  rowsel : Bool
  rxqI : List Byte
  deriving DecidableEq, Repr

/-- Group L: the bytes in flight, oldest first (10_state.md R48). -/
structure Link where
  d2i : List Byte
  i2d : List Byte
  deriving DecidableEq, Repr

/-- The writable memory spaces, each a list of (offset, byte) pairs with strictly rising offsets; an offset not listed
holds no value (20_memory.md R60, R80; log 8). `FN` is constant data and stands in the profile (R65, R301). -/
structure Memory where
  fbMem : List Host.Cell
  atMem : List Host.Cell
  qbMem : List Host.Cell
  rmMem : List Host.Cell
  deriving DecidableEq, Repr

/-- The inputs ENV sets (10_state.md R49). -/
structure Inputs where
  keyin : List Bool
  colin : BitVec 10
  deriving DecidableEq, Repr

/-- Where the host is inside WaitVSync (10_state.md R50). -/
inductive WaitPhase where
  | none
  | phaseA
  | phaseB
  deriving DecidableEq, Repr

/-- The result of a host operation (30_encoding.md R98, column "result"; log 17). -/
inductive HostResult where
  | none
  | byte (b : Byte)
  | bit (b : Bool)
  | word16 (w : BitVec 16)
  | word32 (w : BitVec 32)
  deriving DecidableEq, Repr

/-- The host's side: `WV` (10_state.md R50), the last result (log 17), and which Init operations have run since reset
(45_host_api.md R263; log 9). -/
structure HostSide where
  wv : WaitPhase
  res : HostResult
  dispReady : Bool
  keyReady : Bool
  deriving DecidableEq, Repr

/-- The model's own schedule: the script still to run (30_encoding.md R104; log 2), the code space its bytes are read in
(log 3), and how many free bytes have been drawn (log 10). -/
structure Schedule where
  space : CodeSpace
  script : List Byte
  draws : Nat
  deriving DecidableEq, Repr

/-- The machine. `cfg` is CFG, a parameter no step changes (10_state.md R37; log 1). -/
structure State where
  cfg : Cfg
  video : Video
  keys : Keys
  ini : Initiator
  rsp : Responder
  link : Link
  mem : Memory
  inp : Inputs
  host : HostSide
  sched : Schedule
  out : List TraceEvent
  deriving DecidableEq, Repr

/-- The memory spaces of 20_memory.md R60, by name. -/
inductive Space where
  | fb
  | atr
  | qb
  | rm
  | fn
  deriving DecidableEq, Repr

/-- The model's faults: a host read of state no step has written (93_implementation_defined.md U1). Safe: a claim that
reaches one has left the specified behaviour. -/
inductive Fault where
  /-- RdScanline, RdFrame, DispIsVSync before the first DispInit (U1; R263). -/
  | displayNotInitialised
  /-- KeyGet, JoyGet, KeyPressed, KeyFlush before the first KeyInit (U1; R263). -/
  | keysNotInitialised
  /-- FbRead or AtRead of a byte no step has written, or a pop of such a slot (U1; 20_memory.md R80). -/
  | unwrittenByte (sp : Space) (a : Nat)
  deriving DecidableEq, Repr

/-- Why the machine has no step here. All are safe: the spec gives the step no existence in that state. -/
inductive Refusal where
  /-- An arm of exec that has no meaning yet. -/
  | notModelled (mnemonic : String)
  /-- The scheduled bytes spell no operation, or none is left (30_encoding.md R99, R102; U6; log 2). -/
  | undecodable (r : Reject)
  /-- HOST with a word that spells no operation (30_encoding.md R99; U6). -/
  | reservedHostWord
  /-- The chip or agent the operation belongs to is not part of this ROLE or SER_KIND (00_scope.md R11; R264). -/
  | noSuchAgent
  /-- TICK while DISP_EN = 0 (R121), and a line class code then. -/
  | displayStopped
  /-- KEYTICK while KEY_EN = 0 (R224). -/
  | keysStopped
  /-- SER_READ while SER.busy = 0 (R127). -/
  | serialiserIdle
  /-- DLV, DROP or GARBLE on an empty channel (R172 to R174). -/
  | channelEmpty
  /-- RSP_STEP while RXQ_I is empty (R183). -/
  | nothingReceived
  /-- A host access outside its memory space (U4). -/
  | outOfRange
  /-- DispInit while DISP_EN = 1, KeyInit while KEY_EN = 1 (U5). -/
  | initWhileRunning
  /-- DispInit of a mode that is no profile of CFG (U5). -/
  | noSuchMode
  /-- ENV_KEYIN of a key index that is not below NKEY (10_state.md R49). -/
  | noSuchKey
  /-- A host operation while the host is inside WaitVSync (R250). -/
  | hostWaiting
  /-- SYNC_ACK outside slot 1, COLDATA outside the data slots (30_encoding.md R90; log 18). -/
  | notInSlot
  /-- A line class code that is not the class of the line in progress (log 18). -/
  | otherLineClass
  /-- A CFG that breaks 00_scope.md R7 (U13; log 15). -/
  | illegalConfig
  deriving DecidableEq, Repr

/-- The machine after hardware reset with configuration `c` (10_state.md R53; 70_reset_and_hazards.md R301): the values the
spec states, and for what it leaves unspecified the values of log 5, log 6, log 7 and log 8. -/
def State.resetWith (c : Cfg) : State where
  cfg := c
  video :=
    { dispEn := false, mode := 0, sl := 0, fr := 0, tickPend := false,
      ser := { busy := false, line := 0, base := 0, len := 0, idx := 0, abase := 0, gl := 0 }, vsyncOut := false }
  keys := { keyEn := false, ks := List.replicate c.nkey { rel := 0, rpt := 0 }, qWr := 0, qRd := 0 }
  ini :=
    { matrix := List.replicate c.nrow 0, b0 := 0, b1 := 0, sess := { lastcmd := .none, got := 0, row := 0 },
      linkOk := false, rxqD := [] }
  rsp := { rowsel := false, rxqI := [] }
  link := { d2i := [], i2d := [] }
  mem := { fbMem := [], atMem := [], qbMem := [], rmMem := [] }
  inp := { keyin := List.replicate c.nkey false, colin := 0x3FF }
  host := { wv := .none, res := .none, dispReady := false, keyReady := false }
  sched := { space := .script, script := [], draws := 0 }
  out := []

/-- The machine right after reset, with the configuration of log 1. -/
def State.reset : State := State.resetWith Config.default

/-- The state with its display group replaced. -/
def State.withVideo (s : State) (v : Video) : State := { s with video := v }

/-- The state with its key group replaced. -/
def State.withKeys (s : State) (k : Keys) : State := { s with keys := k }

/-- The state with its initiator group replaced. -/
def State.withIni (s : State) (p : Initiator) : State := { s with ini := p }

/-- The state with its responder group replaced. -/
def State.withRsp (s : State) (r : Responder) : State := { s with rsp := r }

/-- The state with its link replaced. -/
def State.withLink (s : State) (l : Link) : State := { s with link := l }

/-- The state with its memory replaced. -/
def State.withMem (s : State) (m : Memory) : State := { s with mem := m }

/-- The state with its inputs replaced. -/
def State.withInp (s : State) (n : Inputs) : State := { s with inp := n }

/-- The state with the host's side replaced. -/
def State.withHost (s : State) (h : HostSide) : State := { s with host := h }

/-- The state with its schedule replaced. -/
def State.withSched (s : State) (c : Schedule) : State := { s with sched := c }

/-- The state with its trace replaced. -/
def State.withOut (s : State) (o : List TraceEvent) : State := { s with out := o }

end Sys2Proof.Machine
end

