-- ==== Sys2Proof/Machine/Operands.lean ====
section
/-! DEFINITION. Every operand form: what CFG and the counters give an operation to work on. The profile in force, the row
functions, the slot index, the sample vector, PACK and MERGE, key codes, and the offsets into each memory space. -/

namespace Sys2Proof.Machine

open Sys2Proof

/-- The profile a mode index selects (10_state.md R21). An index outside CFG's profiles is refused by DispInit. -/
def profileAt (c : Cfg) (m : Byte) : VideoProfile := c.profiles.getD m.toNat Config.vga480

/-- The profile in force: the one MODE selects (10_state.md R21). R21 says so only while `DISP_EN = 1`; that MODE still selects
it while the display is stopped is the model's choice (DESIGN CHOICE, log 33). -/
def State.profile (s : State) : VideoProfile := profileAt s.cfg s.video.mode

/-- `FP_START`, `VS_START`, `BP_START` (41_blanking_scheduler.md R150). -/
def fpStart (p : VideoProfile) : Nat := p.vActive

def vsStart (p : VideoProfile) : Nat := p.vActive + p.vFp

def bpStart (p : VideoProfile) : Nat := p.vActive + p.vFp + p.vSync

/-- `CLASSIFY(L)` (41_blanking_scheduler.md R150). -/
def classify (p : VideoProfile) (l : Nat) : LineClass :=
  if l < fpStart p then .active
  else if l < vsStart p then .front
  else if l < bpStart p then .vsync
  else .back

/-- The class of the line in progress. While `DISP_EN = 0` it is that of the frozen SL (45_host_api.md R251) in the profile of
the last MODE (DESIGN CHOICE, log 33). -/
def State.lineClass (s : State) : LineClass := classify s.profile s.video.sl.toNat

/-- `SLOT_OF(L)` for a back-porch line (41_blanking_scheduler.md R152). -/
def slotOf (p : VideoProfile) (l : Nat) : Nat := l - bpStart p

/-- The numeric code of a line class (30_encoding.md R101). -/
def LineClass.code : LineClass → BitVec 2
  | .active => 0
  | .front => 1
  | .vsync => 2
  | .back => 3

/-- The slot whose action the initiator is in: only on a back-porch line with both enables 1 (42_remote_io_protocol.md
R193). -/
def State.slotInProgress (s : State) : Option Nat :=
  if s.cfg.role = .display ∧ s.video.dispEn ∧ s.keys.keyEn ∧ s.lineClass = .back then
    some (slotOf s.profile s.video.sl.toNat)
  else none

/-- What a back-porch slot carries (41_blanking_scheduler.md R158). -/
inductive SlotWork where
  | syncTx
  | odd (r : Nat)
  | even (r : Nat)
  | scan
  | idle
  deriving DecidableEq, Repr

/-- The slot table for `ROLE = DISPLAY` (41_blanking_scheduler.md R158). -/
def slotWork (nrow sl : Nat) : SlotWork :=
  if sl = 0 then .syncTx
  else if 2 * nrow + 2 < sl then .idle
  else if sl = 2 * nrow + 2 then .scan
  else if sl % 2 = 1 then .odd ((sl - 1) / 2)
  else .even ((sl - 2) / 2)

/-- `ROWFN(L)`, the frame buffer row of a line (40_clock_serializer_renderer.md R124). -/
def rowFn (p : VideoProfile) (l : Nat) : Nat := l / p.lpr

/-- `AROWFN(L)`, the attribute row (R124). -/
def arowFn (p : VideoProfile) (l : Nat) : Nat := l / p.lpar

/-- `GLFN(L)`, the glyph line (R124). -/
def glFn (p : VideoProfile) (l : Nat) : Nat := (l % p.lpr) / p.lpg

/-- The offset in FB of the byte the serialiser reads next (R127). -/
def serFbOffset (r : Serialiser) : Nat := r.base + r.idx

/-- The offset in AT of the attribute byte that covers it (R129). -/
def serAtOffset (p : VideoProfile) (r : Serialiser) : Nat := r.abase + r.idx / p.cellW

/-- The offset in FN of glyph line `gl` of character `ch` (R130; 20_memory.md R65). -/
def fontOffset (p : VideoProfile) (ch : Byte) (gl : Nat) : Nat := ch.toNat * p.charH + gl

/-- The eight pixels of a byte in a one-bit layout: bit 7 is the leftmost and is shifted out first, bit 0 the last
(20_memory.md R66; 30_encoding.md R107; decision D6). -/
def bitPixels (b : Byte) : List Bool := (List.range 8).map (fun n => b.getLsbD (7 - n))

/-- `PACK0(v)`: raw column bits 4:0 (30_encoding.md R96). -/
def pack0 (v : BitVec 10) : Byte := 0#3 ++ v.extractLsb' 0 5

/-- `PACK1(v)`: raw column bits 9:5 (30_encoding.md R96). -/
def pack1 (v : BitVec 10) : Byte := 0#3 ++ v.extractLsb' 5 5

/-- COLIN, the raw column pins as read: a pin the variant does not have reads 1, whatever the environment set (10_state.md
R49; decision D14; log 31). -/
def columnPins (s : State) : BitVec 10 := s.inp.colin ||| ~~~s.cfg.colPins

/-- `MERGE` of the two translated groups (30_encoding.md R97). -/
def mergeGroups (ncol : Nat) (g0 g1 : Byte) : BitVec 10 :=
  BitVec.ofNat 10 (((g0.toNat <<< 5) ||| g1.toNat) % 2 ^ ncol)

/-- The command used to scan row `r` (00_scope.md R6, `CMDSEQ`). -/
def cmdOfRow (c : Cfg) (r : Nat) : RowCmd := c.cmdSeq.getD r .rowLow

/-- The byte of a row command (30_encoding.md R92). -/
def byteOfCmd (k : WireCodes) : RowCmd → Byte
  | .rowHigh => k.cmdRowHigh
  | .rowLow => k.cmdRowLow

/-- The session's name for a row command (10_state.md R32). -/
def lastOfCmd : RowCmd → LastCmd
  | .rowHigh => .rowHigh
  | .rowLow => .rowLow

/-- The key code of key index `i` (30_encoding.md R100). -/
def keyCode (i : Nat) : Byte := BitVec.ofNat 8 (i + 1)

/-- NOKEY (30_encoding.md R100). -/
def noKeyCode : Byte := 0

/-- A KeyState entry as one word (30_encoding.md R108). -/
def KeyState.word (k : KeyState) : BitVec 16 := k.rel ++ k.rpt

/-- `RAW(i)` of a display chip: the matrix bit KEYMAP assigns to key `i` (43_key_debouncer.md R211). -/
def rawMatrix (c : Cfg) (m : List (BitVec 10)) (i : Nat) : Bool :=
  match c.keymap.findIdx? (fun k => k == i) with
  | some p => (m.getD (p / c.ncol) 0).getLsbD (p % c.ncol)
  | none => false

/-- `RAW(i)` (43_key_debouncer.md R211). -/
def rawSample (s : State) (i : Nat) : Bool :=
  match s.cfg.role with
  | .single => s.inp.keyin.getD i false
  | .display => rawMatrix s.cfg s.ini.matrix i
  | .input => false

/-- The vector of samples a scan step takes at its start (10_state.md R35). -/
def rawVector (s : State) : List Bool := (List.range s.cfg.nkey).map (rawSample s)

/-- `FB_SIZE` for a host access: the profile's while the display runs; while it is stopped no mode fixes it
(10_state.md R21), so the largest of CFG's profiles (70_reset_and_hazards.md R303, R310; log 12). -/
def fbLimit (s : State) : Nat :=
  if s.video.dispEn then s.profile.fbSize else (s.cfg.profiles.map (·.fbSize)).foldl max 0

/-- `AT_SIZE` for a host access, in the same way (log 12). -/
def atLimit (s : State) : Nat :=
  if s.video.dispEn then s.profile.atSize else (s.cfg.profiles.map (·.atSize)).foldl max 0

/-- The slot after `q` in the ring (44_input_event_queue.md R231). -/
def ringNext (c : Cfg) (q : Nat) : Nat := (q + 1) % c.queueSlots

/-- The number of stored events (44_input_event_queue.md R233). -/
def queueCount (s : State) : Nat := (s.keys.qWr + s.cfg.queueSlots - s.keys.qRd) % s.cfg.queueSlots

/-- Frames elapsed between two reads of FR (10_state.md R23). -/
def framesElapsed (f0 f1 : BitVec 32) : BitVec 32 := f1 - f0

end Sys2Proof.Machine
end

