-- ==== Sys2Proof/Machine/Flags.lean ====
section
/-! DEFINITION. Every flag and predicate computation (10_state.md R36): VSYNC_OUT, LINK_OK, SER.busy, IS_VBLANK, Q_EMPTY,
Q_FULL, and "is pressed". -/

namespace Sys2Proof.Machine

open Sys2Proof

/-- VSYNC_OUT for a line of class `c` (10_state.md R26). -/
def vsyncFlag (c : LineClass) : Bool := c == .vsync

/-- LINK_OK after the byte `b` was taken in slot 1 (10_state.md R33). -/
def linkOkFlag (k : WireCodes) (b : Byte) : Bool := b == k.rspSyncAck

/-- SER.busy after a byte was shifted out and `idx` is the new index (40_clock_serializer_renderer.md R127). -/
def busyFlag (r : Serialiser) (idx : Nat) : Bool := if idx = r.len then false else r.busy

/-- IS_VBLANK (41_blanking_scheduler.md R153). -/
def isVBlank (s : State) : Bool := s.lineClass != .active

/-- Q_EMPTY (10_state.md R36). -/
def queueEmpty (s : State) : Bool := s.keys.qRd == s.keys.qWr

/-- Q_FULL (10_state.md R36). -/
def queueFull (s : State) : Bool := ringNext s.cfg s.keys.qWr == s.keys.qRd

/-- The entry of key `i`. -/
def keyState (s : State) (i : Nat) : KeyState := s.keys.ks.getD i { rel := 0, rpt := 0 }

/-- "Is pressed" (43_key_debouncer.md R222; 45_host_api.md R248). -/
def keyPressedFlag (s : State) (code : Byte) : Bool :=
  if 1 ≤ code.toNat ∧ code.toNat ≤ s.cfg.nkey then (keyState s (code.toNat - 1)).rel != 0 else false

end Sys2Proof.Machine
end

