-- ==== Sys2Proof/Machine/Ops.lean ====
section
/-! DEFINITION. The named operations the meanings share: memory, free bytes, the trace, the link, the queue, interrupt entry
and return, the host's results and waits, and the guards that say which agent exists. -/

namespace Sys2Proof.Machine

open Sys2Proof

/-- What a step answers. -/
abbrev Answer := Host.Outcome State Fault Refusal

/-! ### Memory (20_memory.md) -/

/-- The byte at offset `a`, if one has been written (20_memory.md R80). -/
def cellGet : List Host.Cell → Nat → Option Byte
  | [], _ => none
  | c :: t, a => if c.1 = a then some c.2 else cellGet t a

/-- Writes one byte, keeping the offsets strictly rising. -/
def cellPut : List Host.Cell → Nat → Byte → List Host.Cell
  | [], a, v => [(a, v)]
  | c :: t, a, v => if a < c.1 then (a, v) :: c :: t else if a = c.1 then (a, v) :: t else c :: cellPut t a v

/-- Offsets strictly rise: the canonical form. No listed entry can equal what an unlisted offset reads as, because an
unlisted offset holds no value. -/
def cellsRise : List Host.Cell → Bool
  | [] => true
  | c :: t => t.all (fun d => decide (c.1 < d.1)) && cellsRise t

/-- The memory has its canonical form. -/
def Memory.wf (m : Memory) : Bool :=
  cellsRise m.fbMem && cellsRise m.atMem && cellsRise m.qbMem && cellsRise m.rmMem

/-- `MemRead(S, a, 1)`, if the byte holds a value (00_scope.md R10; 20_memory.md R65 for FN, which has size 0 when LAYOUT is
not TEXT, R60). -/
def memRead (s : State) (sp : Space) (a : Nat) : Option Byte :=
  match sp with
  | .fb => cellGet s.mem.fbMem a
  | .atr => cellGet s.mem.atMem a
  | .qb => cellGet s.mem.qbMem a
  | .rm => cellGet s.mem.rmMem a
  | .fn => if s.profile.layout = .text then s.profile.font[a]? else none

/-- `MemWrite(S, a, 1, v)` (00_scope.md R10). FN is read-only: nothing writes it (20_memory.md R60). -/
def memWrite (s : State) (sp : Space) (a : Nat) (v : Byte) : State :=
  match sp with
  | .fb => s.withMem { s.mem with fbMem := cellPut s.mem.fbMem a v }
  | .atr => s.withMem { s.mem with atMem := cellPut s.mem.atMem a v }
  | .qb => s.withMem { s.mem with qbMem := cellPut s.mem.qbMem a v }
  | .rm => s.withMem { s.mem with rmMem := cellPut s.mem.rmMem a v }
  | .fn => s

/-- Writes the bytes `vs` from offset `a` on, in ascending order. -/
def memWriteFrom (sp : Space) : Nat → List Byte → State → State
  | _, [], s => s
  | a, v :: vs, s => memWriteFrom sp (a + 1) vs (memWrite s sp a v)

/-- `draw(byte)`: the next free byte (00_scope.md R10; log 10). -/
def drawByte (s : State) : Byte × State :=
  (freeByte s.sched.draws, s.withSched { s.sched with draws := s.sched.draws + 1 })

/-- A read that never fails: a byte that holds no value is drawn (20_memory.md R80; log 10). -/
def memFetch (s : State) (sp : Space) (a : Nat) : Byte × State :=
  match memRead s sp a with
  | some v => (v, s)
  | none => drawByte s

/-! ### Trace and link -/

/-- `emit(e)` (00_scope.md R10; 10_state.md R51). -/
def emit (s : State) (e : TraceEvent) : State := s.withOut (s.out ++ [e])

/-- `send(CH_D2I, b)` (10_state.md R48). -/
def sendD2I (s : State) (b : Byte) : State := s.withLink { s.link with d2i := s.link.d2i ++ [b] }

/-- `send(CH_I2D, b)` (10_state.md R48). -/
def sendI2D (s : State) (b : Byte) : State := s.withLink { s.link with i2d := s.link.i2d ++ [b] }

/-- `RX_TAKE()` (42_remote_io_protocol.md R178). -/
def rxTake (s : State) : Option Byte × State :=
  match s.ini.rxqD with
  | [] => (none, s)
  | b :: t => (some b, s.withIni { s.ini with rxqD := t })

/-- Sets SESS (10_state.md R32). -/
def setSession (s : State) (c : LastCmd) (got row : Nat) : State :=
  s.withIni { s.ini with sess := { lastcmd := c, got := got, row := row } }

/-- Sets ROWSEL and traces it (42_remote_io_protocol.md R184 to R186). -/
def setRowsel (s : State) (v : Bool) : State := emit (s.withRsp { s.rsp with rowsel := v }) (.rowsel v)

/-! ### The event queue (44_input_event_queue.md) -/

/-- `Q_PUSH(c)` (R231): the slot first, then the write offset; a full queue drops the event. -/
def qPush (s : State) (c : Byte) : State :=
  if queueFull s then s
  else
    let s1 := memWrite s .qb s.keys.qWr c
    s1.withKeys { s1.keys with qWr := ringNext s.cfg s.keys.qWr }

/-- What `Q_POP()` answers (R232). -/
inductive Popped where
  | code (c : Byte) (s : State)
  | unwritten (a : Nat)
  deriving DecidableEq, Repr

/-- `Q_POP()` (R232): NOKEY from an empty queue, else the byte at the read offset, which then advances. A stored slot
always holds a byte (R103); one that does not is the fault of U1. -/
def qPop (s : State) : Popped :=
  if queueEmpty s then .code noKeyCode s
  else
    match memRead s .qb s.keys.qRd with
    | some c => .code c (s.withKeys { s.keys with qRd := ringNext s.cfg s.keys.qRd })
    | none => .unwritten s.keys.qRd

/-! ### Interrupt entry and return (60_exceptions.md) -/

/-- The timer raises the scanline request (10_state.md R24; R277). -/
def raiseScanline (s : State) : State := s.withVideo { s.video with tickPend := true }

/-- Taking the scanline interrupt: entry clears the request and saves and changes nothing else (10_state.md R24;
60_exceptions.md R282). The block has no saved registers, no mode bit and no vector (R270). -/
def enterScanline (s : State) : State := s.withVideo { s.video with tickPend := false }

/-- Taking an interrupt that has no request bit: KEYTICK (60_exceptions.md R278, R282). -/
def enterHandler (s : State) : State := s

/-- Return from a handler: there is nothing to restore (60_exceptions.md R283). -/
def leaveHandler (s : State) : State := s

/-! ### The host's side -/

/-- Hands a result to the host (log 17). -/
def giveResult (s : State) (r : HostResult) : State := s.withHost { s.host with res := r }

/-- One poll of WaitVSync (45_host_api.md R250): phase A ends when the raster is active, phase B when it is blank. -/
def pollWait (s : State) : State :=
  match s.host.wv with
  | .none => s
  | .phaseA => if isVBlank s then s else s.withHost { s.host with wv := .phaseB }
  | .phaseB => if isVBlank s then s.withHost { s.host with wv := .none } else s

/-! ### Guards: which agent exists (00_scope.md R11; 45_host_api.md R264) -/

/-- The steps of group V exist when the chip drives the display (10_state.md, table of groups). -/
def hasDisplay (s : State) : Bool := s.cfg.role != .input

/-- The link and the responder exist in a two-chip system (10_state.md R48; log 13). -/
def hasLink (s : State) : Bool := s.cfg.role != .single

/-- A host operation: the host exists and is not inside WaitVSync (R245, R250, R264). -/
def hostStep (s : State) (k : Answer) : Answer :=
  if !hasDisplay s then .refused .noSuchAgent
  else if s.host.wv ≠ .none then .refused .hostWaiting
  else k

/-- A host operation that reads the counters needs DispInit to have run once (R263). Before it the spec itself faults the read
(R256, "the read faults in the model"; 93_implementation_defined.md U1, treatment `fault`). -/
def needDisplay (s : State) (k : Answer) : Answer :=
  if s.host.dispReady then k else .fault .displayNotInitialised

/-- A host operation on the key state needs KeyInit to have run once (R263). Before it the spec itself faults the operation
(R246, "the operation faults in the model"; 93_implementation_defined.md U1, treatment `fault`). -/
def needKeys (s : State) (k : Answer) : Answer :=
  if s.host.keyReady then k else .fault .keysNotInitialised

/-- A step of the link or of the responder (R48). -/
def linkStep (s : State) (k : Answer) : Answer :=
  if hasLink s then k else .refused .noSuchAgent

/-- A step of the display's interrupt context while the ScanlineClock runs (R120, R121). -/
def displayStep (s : State) (k : Answer) : Answer :=
  if !hasDisplay s then .refused .noSuchAgent
  else if !s.video.dispEn then .refused .displayStopped
  else k

/-! ### Fetch -/

/-- The state with the script advanced to `rest`. -/
def advance (s : State) (rest : List Byte) : State := s.withSched { s.sched with script := rest }

/-- The next scheduled operation and what is left of the script (30_encoding.md R104; log 2). -/
def fetch (s : State) : Decoded := decodeIn s.cfg.codes s.sched.space s.sched.script

/-- Instantiates the machine with a configuration: an illegal one is refused (00_scope.md R7; U13; log 15). -/
def instantiate (c : Cfg) : Answer :=
  if c.legal then .next (State.resetWith c) else .refused .illegalConfig

end Sys2Proof.Machine
end

