-- ==== Sys2Proof/Machine/Keys.lean ====
section
/-! DEFINITION. KeyDebouncer (43_key_debouncer.md): DEBOUNCE_KEY, SCAN and KEYTICK. -/

namespace Sys2Proof.Machine

open Sys2Proof

/-- Replaces the entry of key `i`. -/
def setKeyState (s : State) (i : Nat) (k : KeyState) : State :=
  s.withKeys { s.keys with ks := s.keys.ks.set i k }

/-- `DEBOUNCE_KEY(i, 1)`: the key is sampled asserted (R213 to R216). -/
def debounceOn (i : Nat) (s : State) : State :=
  let k := keyState s i
  if k.rel = 0 then
    qPush (setKeyState s i { rel := s.cfg.keycntRel, rpt := s.cfg.keycntPress }) (keyCode i)
  else if k.rpt - 1 = 0 then
    qPush (setKeyState s i { rel := s.cfg.keycntRel, rpt := s.cfg.keycntRepeat }) (keyCode i)
  else setKeyState s i { rel := s.cfg.keycntRel, rpt := k.rpt - 1 }

/-- `DEBOUNCE_KEY(i, 0)`: the release counter runs down, the repeat counter holds (R217, R218). -/
def debounceOff (i : Nat) (s : State) : State :=
  let k := keyState s i
  if k.rel = 0 then s else setKeyState s i { k with rel := k.rel - 1 }

/-- `DEBOUNCE_KEY(i, a)` (R213). -/
def debounceKey (i : Nat) (a : Bool) (s : State) : State :=
  if a then debounceOn i s else debounceOff i s

/-- The keys from index `i` on, in ascending order (R212, R220). -/
def debounceFrom : Nat → List Bool → State → State
  | _, [], s => s
  | i, a :: as, s => debounceFrom (i + 1) as (debounceKey i a s)

/-- `SCAN` (R212). -/
def scan (s : State) : State :=
  let s1 := debounceFrom 0 (rawVector s) s
  if s.cfg.role = .display then setSession s1 .none 0 0 else s1

/-- `KEYTICK` (R224): an interrupt of its own on a single chip, enabled by KEY_EN. -/
def execKeyTick (s : State) : Answer :=
  if s.cfg.role ≠ .single then .refused .noSuchAgent
  else if !s.keys.keyEn then .refused .keysStopped
  else .next (leaveHandler (scan (enterHandler s)))

end Sys2Proof.Machine
end

