-- ==== Sys2Proof/Machine/Initiator.lean ====
section
/-! DEFINITION. The initiator of RemoteIOProtocol (42_remote_io_protocol.md, section 2) and the back-porch slots
(41_blanking_scheduler.md): P_SYNC_TX, P_ODD, P_EVEN, P_SLOT, BACK_SLOT, and the two response bytes as operations. -/

namespace Sys2Proof.Machine

open Sys2Proof

/-- Slot 1 took the byte `b`: LINK_OK and SESS.got (R176, r = 0). -/
def latchAck (b : Byte) (s : State) : State :=
  s.withIni { s.ini with linkOk := linkOkFlag s.cfg.codes b, sess := { s.ini.sess with got := 1 } }

/-- A slot `2r+2` took the byte `b`: the first data byte of a row (R177). -/
def latchFirst (b : Byte) (s : State) : State :=
  s.withIni { s.ini with b0 := b, sess := { s.ini.sess with got := 1 } }

/-- A slot `2r+3` took the byte `b`: the second data byte of a row (R176, r > 0). -/
def latchSecond (b : Byte) (s : State) : State :=
  s.withIni { s.ini with b1 := b, sess := { s.ini.sess with got := s.ini.sess.got + 1 } }

/-- Closes SYNC in slot 1: LINK_OK is cleared where no byte was there (R176). -/
def closeSync (t : Option Byte) (s : State) : State :=
  match t with
  | some b => latchAck b s
  | none => s.withIni { s.ini with linkOk := false }

/-- `MATRIX[r] <- MERGE(B0REG, B1REG)` through the memoised table (R191; 30_encoding.md R97). -/
def decodeRow (r : Nat) (s : State) : State :=
  let f0 := memFetch s .rm s.ini.b0.toNat
  let f1 := memFetch f0.2 .rm s.ini.b1.toNat
  f1.2.withIni { f1.2.ini with matrix := f1.2.ini.matrix.set r (mergeGroups s.cfg.ncol f0.1 f1.1) }

/-- Closes the command of row `r`: the second data byte if one is there, then the row is decoded, stale or not (R176,
R179). -/
def closeRow (r : Nat) (t : Option Byte) (s : State) : State :=
  match t with
  | some b => decodeRow r (latchSecond b s)
  | none => decodeRow r s

/-- Sends the command of row `r` (R176). -/
def sendRow (r : Nat) (s : State) : State :=
  sendD2I (setSession s (lastOfCmd (cmdOfRow s.cfg r)) 0 r) (byteOfCmd s.cfg.codes (cmdOfRow s.cfg r))

/-- `P_SYNC_TX` (R175). -/
def pSyncTx (s : State) : State :=
  let s1 := s.withIni { s.ini with rxqD := [] }
  sendD2I (setSession s1 .sync 0 0) s.cfg.codes.cmdSync

/-- `P_ODD(r)` (R176). It sends the next row's command whatever SESS holds (10_state.md R32: no outcome depends on SESS), also
in a frame without SYNC. 70_reset_and_hazards.md R318, derived from R157 and R175 to R179, says that the slots after a KeyInit
in the middle of a back porch find RXQ_D empty: here that is so as long as no reply is delivered (`pOdd_idle`; DEDUCED, log 29). -/
def pOdd (r : Nat) (s : State) : State :=
  let t := rxTake s
  let s1 := if r = 0 then closeSync t.1 t.2 else closeRow (r - 1) t.1 t.2
  if r < s.cfg.nrow then sendRow r s1 else s1

/-- `P_EVEN(r)` (R177): the row only names the slot. -/
def pEven (s : State) : State :=
  let t := rxTake s
  match t.1 with
  | some b => latchFirst b t.2
  | none => t.2

/-- `P_SLOT(s)` (41_blanking_scheduler.md R158). -/
def pSlot (n : Nat) (s : State) : State :=
  match slotWork s.cfg.nrow n with
  | .syncTx => pSyncTx s
  | .odd r => pOdd r s
  | .even _ => pEven s
  | .scan => scan s
  | .idle => s

/-- `BACK_SLOT(s)` (41_blanking_scheduler.md R157, R159). -/
def backSlot (n : Nat) (s : State) : State :=
  if !s.keys.keyEn then s
  else
    match s.cfg.role with
    | .display => pSlot n s
    | .single => s
    | .input => s

/-- SYNC_ACK: the initiator takes the acknowledgement byte, which it recognises by position, in slot 1 (30_encoding.md
R90, R94; R176; log 18). -/
def execSyncAck (s : State) : Answer :=
  if s.slotInProgress = some 1 then .next (latchAck s.cfg.codes.rspSyncAck s) else .refused .notInSlot

/-- COLDATA: the initiator takes a data byte; the slot says which latch it goes to (30_encoding.md R90, R95; R176, R177;
log 18). DESIGN CHOICE (log 35): it may run again on the same line; in a slot `2r+3` each run adds 1 to SESS.got, which so
passes R32's range 0 to 2. -/
def execColdata (raw : BitVec 5) (s : State) : Answer :=
  match s.slotInProgress.map (slotWork s.cfg.nrow) with
  | some (.even _) => .next (latchFirst (0#3 ++ raw) s)
  | some (.odd (_ + 1)) => .next (latchSecond (0#3 ++ raw) s)
  | _ => .refused .notInSlot

end Sys2Proof.Machine
end

