-- ==== Sys2Proof/Machine/Display.lean ====
section
/-! DEFINITION. ScanlineClock, FrameRenderer and PixelSerializer (40_clock_serializer_renderer.md): TICK, RENDER, SER_READ in
its four layouts, and the line classes as operations. -/

namespace Sys2Proof.Machine

open Sys2Proof

/-- The end of every SER_READ form: emits the element, advances SER.idx and clears SER.busy after the last byte (R127). -/
def serEmit (value : Byte) (attr : Option Byte) (pixels : Pixels) (s : State) : State :=
  let r := s.video.ser
  let s1 := emit s (.pix r.line r.idx value attr pixels)
  s1.withVideo { s1.video with ser := { r with idx := r.idx + 1, busy := busyFlag r (r.idx + 1) } }

/-- `SER_READ`, layout GFX1: eight pixels, bit 7 first (R127). -/
def serGfx1 (s : State) : State :=
  let b := memFetch s .fb (serFbOffset s.video.ser)
  serEmit b.1 none (.bits (bitPixels b.1)) b.2

/-- `SER_READ`, layout GFX8: one pixel of the byte's value (R128). -/
def serGfx8 (s : State) : State :=
  let b := memFetch s .fb (serFbOffset s.video.ser)
  serEmit b.1 none (.level b.1) b.2

/-- `SER_READ`, layout ATTR: eight pixels, bit 7 first, with the covering cell's byte (R129). -/
def serAttr (s : State) : State :=
  let b := memFetch s .fb (serFbOffset s.video.ser)
  let a := memFetch b.2 .atr (serAtOffset s.profile s.video.ser)
  serEmit b.1 (some a.1) (.bits (bitPixels b.1)) a.2

/-- `SER_READ`, layout TEXT: a glyph line of the character, bit 7 first (R130). -/
def serText (s : State) : State :=
  let ch := memFetch s .fb (serFbOffset s.video.ser)
  let g := memFetch ch.2 .fn (fontOffset s.profile ch.1 s.video.ser.gl)
  serEmit g.1 none (.bits (bitPixels g.1)) g.2

/-- `SER_READ` by layout (R127 to R130). -/
def serReadByte (s : State) : State :=
  match s.profile.layout with
  | .gfx1 => serGfx1 s
  | .gfx8 => serGfx8 s
  | .attr => serAttr s
  | .text => serText s

/-- `n` SER_READ steps in order (R131). -/
def serReadRow : Nat → State → State
  | 0, s => s
  | n + 1, s => serReadRow n (serReadByte s)

/-- Arms the serialiser with the row of line `L` (R125). -/
def armSerialiser (p : VideoProfile) (l : BitVec 16) (r : Serialiser) : Serialiser :=
  { busy := true
    line := l
    base := rowFn p l.toNat * p.fbPitch
    len := p.fbPitch
    idx := 0
    abase := if p.layout = .attr then arowFn p l.toNat * p.atPitch else r.abase
    gl := if p.layout = .text then glFn p l.toNat else r.gl }

/-- `RENDER(L)` with `L = SL` (R125, R131, R133). -/
def render (s : State) : State :=
  let p := s.profile
  if rowFn p s.video.sl.toNat < p.fbRows then
    let s1 := s.withVideo { s.video with ser := armSerialiser p s.video.sl s.video.ser }
    match s.cfg.serKind with
    | .spi => s1
    | .bitbang => serReadRow p.fbPitch s1
  else s

/-- Steps 3 and 4 of TICK on a line of class `c`: VSYNC_OUT, the LINE event, the class's action (R121, R123, R155, R156;
41_blanking_scheduler.md R157). -/
def lineAction (c : LineClass) (s : State) : State :=
  let s1 := s.withVideo { s.video with vsyncOut := vsyncFlag c }
  let s2 := emit s1 (.line s.video.fr s.video.sl c (vsyncFlag c))
  match c with
  | .active => render s2
  | .front => s2
  | .vsync => s2
  | .back => backSlot (slotOf s.profile s.video.sl.toNat) s2

/-- Step 1 of TICK: the counters (R122). -/
def advanceCounters (s : State) : State :=
  if s.video.sl.toNat = s.profile.vTotal - 1 then s.withVideo { s.video with sl := 0, fr := s.video.fr + 1 }
  else s.withVideo { s.video with sl := s.video.sl + 1 }

/-- Step 2 of TICK: the serialiser gives up what it still held (R132). -/
def abandonRow (s : State) : State := s.withVideo { s.video with ser := { s.video.ser with busy := false } }

/-- The scanline handler, from entry to return (R121). -/
def scanlineHandler (s : State) : State :=
  let s1 := abandonRow (advanceCounters (enterScanline s))
  leaveHandler (lineAction s1.lineClass s1)

/-- `TICK` (R121): the request, its handler, and the host's poll of WaitVSync, which completes at the tick that ends its
phase B (30_encoding.md R105; log 11). -/
def execTick (s : State) : Answer :=
  displayStep s (.next (pollWait (scanlineHandler (raiseScanline s))))

/-- `SER_READ` as a step of the agent SER, which exists when SER_KIND = SPI (00_scope.md R11; R126, R127; log 24). -/
def execSerRead (s : State) : Answer :=
  if !hasDisplay s || s.cfg.serKind != .spi then .refused .noSuchAgent
  else if !s.video.ser.busy then .refused .serialiserIdle
  else .next (serReadByte s)

/-- A line class code: what the handler does on a line of that class, while such a line is in progress (30_encoding.md
R101; R121 steps 3 and 4; log 18). -/
def lineClassStep (c : LineClass) (s : State) : Answer :=
  displayStep s (if s.lineClass = c then .next (lineAction c s) else .refused .otherLineClass)

/-- Line class ACTIVE (R101, R125). -/
def execLcActive (s : State) : Answer := lineClassStep .active s

/-- Line class FRONT (R101; 41_blanking_scheduler.md R155). -/
def execLcFront (s : State) : Answer := lineClassStep .front s

/-- Line class VSYNC (R101; 41_blanking_scheduler.md R156). -/
def execLcVSync (s : State) : Answer := lineClassStep .vsync s

/-- Line class BACK (R101; 41_blanking_scheduler.md R157). -/
def execLcBack (s : State) : Answer := lineClassStep .back s

end Sys2Proof.Machine
end

