-- ==== Sys2Proof/Machine/HostApi.lean ====
section
/-! DEFINITION. The host operations (45_host_api.md), the HOST event that wraps them, and NOKEY. -/

namespace Sys2Proof.Machine

open Sys2Proof

/-- A pop handed to the host: KeyGet and JoyGet (R246, R247). -/
def popKey (s : State) : Answer :=
  match qPop s with
  | .code c t => .next (giveResult t (.byte c))
  | .unwritten a => .fault (.unwrittenByte .qb a)

/-- `KeyGet` (R246). -/
def execKeyGet (s : State) : Answer := hostStep s (needKeys s (popKey s))

/-- `JoyGet`: the same operation on the same queue under a second name (R247). -/
def execJoyGet (s : State) : Answer := hostStep s (needKeys s (popKey s))

/-- `KeyPressed(code)` (R248). -/
def execKeyPressed (code : Byte) (s : State) : Answer :=
  hostStep s (needKeys s (.next (giveResult s (.bit (keyPressedFlag s code)))))

/-- `KeyFlush` (R249). -/
def execKeyFlush (s : State) : Answer :=
  hostStep s (needKeys s (.next (giveResult (s.withKeys { s.keys with qRd := s.keys.qWr }) .none)))

/-- `WaitVSync` (R250): enters phase A and polls once; phase A ends at once on an active line (R105; log 11). -/
def execWaitVSync (s : State) : Answer :=
  hostStep s (.next (pollWait (s.withHost { s.host with wv := .phaseA, res := .none })))

/-- `DispIsVSync` (R251). -/
def execDispIsVSync (s : State) : Answer :=
  hostStep s (needDisplay s (.next (giveResult s (.bit (isVBlank s)))))

/-- The effect of `DispInit(m)` (R252). 10_state.md R53 leaves SER's fields other than `busy` unspecified after it: that
they keep their values, as in R252's pseudocode, is the model's choice (DESIGN CHOICE, log 26). -/
def dispInit (m : Byte) (s : State) : State :=
  (s.withVideo
    { dispEn := true, mode := m, sl := 0, fr := 0, tickPend := false,
      ser := { s.video.ser with busy := false }, vsyncOut := false }).withHost
    { s.host with dispReady := true, res := .none }

/-- `DispInit(m)` (R252; U5). -/
def execDispInit (m : Byte) (s : State) : Answer :=
  hostStep s
    (if s.video.dispEn then .refused .initWhileRunning
     else if s.cfg.profiles.length ≤ m.toNat then .refused .noSuchMode
     else .next (dispInit m s))

/-- `DispTerm` (R253): the counters and the buffers keep their values. -/
def execDispTerm (s : State) : Answer :=
  hostStep s
    (.next (giveResult
      (s.withVideo
        { s.video with
          dispEn := false, ser := { s.video.ser with busy := false }, tickPend := false, vsyncOut := false }) .none))

/-- The part of KeyInit that every chip with keys has (R254). -/
def keyInitKeys (s : State) : State :=
  (s.withKeys
    { keyEn := true, ks := List.replicate s.cfg.nkey { rel := 0, rpt := 0 }, qWr := 0, qRd := 0 }).withHost
    { s.host with keyReady := true, res := .none }

/-- The part of KeyInit that only a display chip has: the memoised remap table and the protocol registers (R254;
20_memory.md R64). -/
def keyInitProtocol (s : State) : State :=
  let s1 := memWriteFrom .rm 0 s.cfg.remap s
  s1.withIni
    { matrix := List.replicate s.cfg.nrow 0, b0 := 0x1F, b1 := 0x1F,
      sess := { lastcmd := .none, got := 0, row := 0 }, linkOk := false, rxqD := [] }

/-- `KeyInit` (R254; U5). -/
def execKeyInit (s : State) : Answer :=
  hostStep s
    (if s.keys.keyEn then .refused .initWhileRunning
     else
       match s.cfg.role with
       | .display => .next (keyInitKeys (keyInitProtocol s))
       | .single => .next (keyInitKeys s)
       | .input => .refused .noSuchAgent)

/-- `KeyTerm` (R255). -/
def execKeyTerm (s : State) : Answer :=
  hostStep s (.next (giveResult (s.withKeys { s.keys with keyEn := false }) .none))

/-- `RdScanline` (R256). -/
def execRdScanline (s : State) : Answer :=
  hostStep s (needDisplay s (.next (giveResult s (.word16 s.video.sl))))

/-- `RdFrame` (R257). -/
def execRdFrame (s : State) : Answer :=
  hostStep s (needDisplay s (.next (giveResult s (.word32 s.video.fr))))

/-- A host write of one byte below `limit` (20_memory.md R67; U4). -/
def hostWrite (sp : Space) (limit : Nat) (a : BitVec 16) (v : Byte) (s : State) : Answer :=
  hostStep s
    (if a.toNat < limit then .next (giveResult (memWrite s sp a.toNat v) .none) else .refused .outOfRange)

/-- A host read of one byte below `limit`: a byte no step has written faults (20_memory.md R67, R80; U1, U4). -/
def hostRead (sp : Space) (limit : Nat) (a : BitVec 16) (s : State) : Answer :=
  hostStep s
    (if a.toNat < limit then
       match memRead s sp a.toNat with
       | some v => .next (giveResult s (.byte v))
       | none => .fault (.unwrittenByte sp a.toNat)
     else .refused .outOfRange)

/-- `FbWrite(a, v)` (R258). -/
def execFbWrite (a : BitVec 16) (v : Byte) (s : State) : Answer := hostWrite .fb (fbLimit s) a v s

/-- `FbRead(a)` (R259). -/
def execFbRead (a : BitVec 16) (s : State) : Answer := hostRead .fb (fbLimit s) a s

/-- `AtWrite(a, v)` (R260). -/
def execAtWrite (a : BitVec 16) (v : Byte) (s : State) : Answer := hostWrite .atr (atLimit s) a v s

/-- `AtRead(a)` (R261). -/
def execAtRead (a : BitVec 16) (s : State) : Answer := hostRead .atr (atLimit s) a s

/-- NOKEY: the code a pop of an empty queue hands to the host; nothing else changes (30_encoding.md R100;
44_input_event_queue.md R232; log 18). -/
def execNoKey (s : State) : Answer := hostStep s (.next (giveResult s (.byte noKeyCode)))

/-- Runs the host operation an H32 word spelled (30_encoding.md R98). -/
def runHostOp (i : Instr) (s : State) : Answer :=
  match i with
  | .keyGet => execKeyGet s
  | .joyGet => execJoyGet s
  | .keyPressed code => execKeyPressed code s
  | .keyFlush => execKeyFlush s
  | .waitVSync => execWaitVSync s
  | .dispIsVSync => execDispIsVSync s
  | .dispInit m => execDispInit m s
  | .dispTerm => execDispTerm s
  | .keyInit => execKeyInit s
  | .keyTerm => execKeyTerm s
  | .rdScanline => execRdScanline s
  | .rdFrame => execRdFrame s
  | .fbWrite a v => execFbWrite a v s
  | .fbRead a => execFbRead a s
  | .atWrite a v => execAtWrite a v s
  | .atRead a => execAtRead a s
  | .sync | .rowHigh | .rowLow | .syncAck | .coldata _ | .tick | .serRead | .keyTick | .dlvD2I | .dlvI2D | .dropD2I
  | .dropI2D | .garbleD2I _ | .garbleI2D _ | .rspStep | .envKeyIn _ _ | .envColIn _ | .host _ | .noKey | .lcActive
  | .lcFront | .lcVSync | .lcBack => .refused .reservedHostWord

/-- `HOST`: the host operation its word spells (30_encoding.md R102; U6). -/
def execHost (w : BitVec 32) (s : State) : Answer :=
  match decodeH32 w with
  | some i => runHostOp i s
  | none => .refused .reservedHostWord

end Sys2Proof.Machine
end

