-- ==== Sys2Proof/Machine/LinkAgent.lean ====
section
/-! DEFINITION. The agents LINK and ENV: delivery, loss and corruption of bytes in flight (42_remote_io_protocol.md R172 to
R174), and the inputs (10_state.md R49). -/

namespace Sys2Proof.Machine

open Sys2Proof

/-- `DLV_D2I` (R172). -/
def execDlvD2I (s : State) : Answer :=
  linkStep s
    (match s.link.d2i with
     | [] => .refused .channelEmpty
     | b :: t => .next ((s.withLink { s.link with d2i := t }).withRsp { s.rsp with rxqI := s.rsp.rxqI ++ [b] }))

/-- `DLV_I2D` (R172). -/
def execDlvI2D (s : State) : Answer :=
  linkStep s
    (match s.link.i2d with
     | [] => .refused .channelEmpty
     | b :: t => .next ((s.withLink { s.link with i2d := t }).withIni { s.ini with rxqD := s.ini.rxqD ++ [b] }))

/-- `DROP_D2I` (R173). -/
def execDropD2I (s : State) : Answer :=
  linkStep s
    (match s.link.d2i with
     | [] => .refused .channelEmpty
     | _ :: t => .next (s.withLink { s.link with d2i := t }))

/-- `DROP_I2D` (R173). -/
def execDropI2D (s : State) : Answer :=
  linkStep s
    (match s.link.i2d with
     | [] => .refused .channelEmpty
     | _ :: t => .next (s.withLink { s.link with i2d := t }))

/-- `GARBLE_D2I x` (R174). -/
def execGarbleD2I (x : Byte) (s : State) : Answer :=
  linkStep s
    (match s.link.d2i with
     | [] => .refused .channelEmpty
     | _ :: t => .next (s.withLink { s.link with d2i := x :: t }))

/-- `GARBLE_I2D x` (R174). -/
def execGarbleI2D (x : Byte) (s : State) : Answer :=
  linkStep s
    (match s.link.i2d with
     | [] => .refused .channelEmpty
     | _ :: t => .next (s.withLink { s.link with i2d := x :: t }))

/-- `ENV_KEYIN index value`: the environment sets one key input of a single chip (10_state.md R49). -/
def execEnvKeyIn (index : Byte) (value : Bool) (s : State) : Answer :=
  if s.cfg.role ≠ .single then .refused .noSuchAgent
  else if s.cfg.nkey ≤ index.toNat then .refused .noSuchKey
  else .next (s.withInp { s.inp with keyin := s.inp.keyin.set index.toNat value })

/-- `ENV_COLIN v`: the environment sets the raw column pins of the input chip (10_state.md R49). A pin the variant does not
have reads 1 all the same (`columnPins`). -/
def execEnvColIn (v : BitVec 10) (s : State) : Answer :=
  linkStep s (.next (s.withInp { s.inp with colin := v }))

end Sys2Proof.Machine
end

