-- ==== Sys2Proof/Machine/Responder.lean ====
section
/-! DEFINITION. The responder of RemoteIOProtocol (42_remote_io_protocol.md, section 3): RSP_STEP and the three wire
commands. -/

namespace Sys2Proof.Machine

open Sys2Proof

/-- `RSP_SYNC` (R184). -/
def rspSync (s : State) : State := setRowsel (sendI2D s s.cfg.codes.rspSyncAck) true

/-- `RSP_ROW(x)` (R185): both bytes come from one sample, taken before ROWSEL changes. -/
def rspRow (x : Bool) (s : State) : State :=
  let v := columnPins s
  setRowsel (sendI2D (sendI2D s (pack0 v)) (pack1 v)) x

/-- What the responder does with the byte `c` (R183): a reserved byte is ignored (R187). -/
def rspByte (c : Byte) (s : State) : State :=
  if c = s.cfg.codes.cmdSync then rspSync s
  else if c = s.cfg.codes.cmdRowHigh then rspRow true s
  else if c = s.cfg.codes.cmdRowLow then rspRow false s
  else s

/-- Wire command SYNC (R184). -/
def execSync (s : State) : Answer := linkStep s (.next (rspSync s))

/-- Wire command ROW_HIGH (R185). -/
def execRowHigh (s : State) : Answer := linkStep s (.next (rspRow true s))

/-- Wire command ROW_LOW (R186). -/
def execRowLow (s : State) : Answer := linkStep s (.next (rspRow false s))

/-- `RSP_STEP` (R183). -/
def execRspStep (s : State) : Answer :=
  linkStep s
    (match s.rsp.rxqI with
     | [] => .refused .nothingReceived
     | c :: t => .next (leaveHandler (rspByte c (enterHandler (s.withRsp { s.rsp with rxqI := t })))))

end Sys2Proof.Machine
end

