-- ==== Sys2Proof/Machine/Dispatch.lean ====
section
/-! DEFINITION. exec: the operation's meaning, one arm per row of spec/opcode_table.json. -/

namespace Sys2Proof.Machine

open Sys2Proof

def exec (i : Instr) (s : State) : Host.Outcome State Fault Refusal :=
  match i with
  | .sync => Sys2Proof.Machine.execSync s
  | .rowHigh => Sys2Proof.Machine.execRowHigh s
  | .rowLow => Sys2Proof.Machine.execRowLow s
  | .syncAck => Sys2Proof.Machine.execSyncAck s
  | .coldata raw => Sys2Proof.Machine.execColdata raw s
  | .keyGet => Sys2Proof.Machine.execKeyGet s
  | .joyGet => Sys2Proof.Machine.execJoyGet s
  | .keyPressed code => Sys2Proof.Machine.execKeyPressed code s
  | .keyFlush => Sys2Proof.Machine.execKeyFlush s
  | .waitVSync => Sys2Proof.Machine.execWaitVSync s
  | .dispIsVSync => Sys2Proof.Machine.execDispIsVSync s
  | .dispInit m => Sys2Proof.Machine.execDispInit m s
  | .dispTerm => Sys2Proof.Machine.execDispTerm s
  | .keyInit => Sys2Proof.Machine.execKeyInit s
  | .keyTerm => Sys2Proof.Machine.execKeyTerm s
  | .rdScanline => Sys2Proof.Machine.execRdScanline s
  | .rdFrame => Sys2Proof.Machine.execRdFrame s
  | .fbWrite a v => Sys2Proof.Machine.execFbWrite a v s
  | .fbRead a => Sys2Proof.Machine.execFbRead a s
  | .atWrite a v => Sys2Proof.Machine.execAtWrite a v s
  | .atRead a => Sys2Proof.Machine.execAtRead a s
  | .tick => Sys2Proof.Machine.execTick s
  | .serRead => Sys2Proof.Machine.execSerRead s
  | .keyTick => Sys2Proof.Machine.execKeyTick s
  | .dlvD2I => Sys2Proof.Machine.execDlvD2I s
  | .dlvI2D => Sys2Proof.Machine.execDlvI2D s
  | .dropD2I => Sys2Proof.Machine.execDropD2I s
  | .dropI2D => Sys2Proof.Machine.execDropI2D s
  | .garbleD2I x => Sys2Proof.Machine.execGarbleD2I x s
  | .garbleI2D x => Sys2Proof.Machine.execGarbleI2D x s
  | .rspStep => Sys2Proof.Machine.execRspStep s
  | .envKeyIn index value => Sys2Proof.Machine.execEnvKeyIn index value s
  | .envColIn v => Sys2Proof.Machine.execEnvColIn v s
  | .host w => Sys2Proof.Machine.execHost w s
  | .noKey => Sys2Proof.Machine.execNoKey s
  | .lcActive => Sys2Proof.Machine.execLcActive s
  | .lcFront => Sys2Proof.Machine.execLcFront s
  | .lcVSync => Sys2Proof.Machine.execLcVSync s
  | .lcBack => Sys2Proof.Machine.execLcBack s

end Sys2Proof.Machine
end

