-- ==== Sys2Proof/Machine/Step.lean ====
section
/-! DEFINITION. One step: the next statement of the script, executed (30_encoding.md R104; 00_scope.md R11). -/

namespace Sys2Proof.Machine

open Sys2Proof

/-- One step of the machine: fetches the next scheduled operation, moves the script past it and executes it. Bytes that
spell none, and the end of the script, are refused (log 2). -/
def step (s : State) : Host.Outcome State Fault Refusal :=
  match fetch s with
  | .ok (i, rest) => exec i (advance s rest)
  | .error r => .refused (.undecodable r)

/-- `s` with the instruction whose bits are `w` placed where `step` fetches: the schedule holds its bytes and is read in its
code space. This stands for loading a script from outside (log 2, log 3). -/
def State.withFetchWord (s : State) (nbits w : Nat) : State :=
  s.withSched { s.sched with space := tableSpace nbits w, script := tableBytes nbits w }

end Sys2Proof.Machine
end

