-- ==== Sys2Proof/Machine/Script.lean ====
section
/-! DEFINITION. Stimulus scripts as lists of statements, and the pseudo-operations (30_encoding.md R104, R105). -/

namespace Sys2Proof.Machine

open Sys2Proof

/-- Runs statements one after the other; a script with an illegal statement has no run (R104). -/
def runAll : List Instr → State → Answer
  | [], s => .next s
  | i :: is, s =>
    match exec i s with
    | .next t => runAll is t
    | .fault f => .fault f
    | .refused r => .refused r

/-- `LINE` (R105): TICK, then the row's SER_READs when the tick armed an SPI serialiser. -/
def runLine (s : State) : Answer :=
  match exec .tick s with
  | .next t =>
    if t.cfg.serKind = .spi ∧ t.video.ser.busy then runAll (List.replicate t.profile.fbPitch .serRead) t else .next t
  | .fault f => .fault f
  | .refused r => .refused r

/-- `LINES n` (R105). -/
def runLines : Nat → State → Answer
  | 0, s => .next s
  | n + 1, s =>
    match runLine s with
    | .next t => runLines n t
    | .fault f => .fault f
    | .refused r => .refused r

/-- `FRAME` (R105). -/
def runFrame (s : State) : Answer := runLines s.profile.vTotal s

/-- `XFER_D2I` (R105). -/
def xferD2I : List Instr := [.dlvD2I, .rspStep]

/-- `XFER_I2D` (R105). -/
def xferI2D : List Instr := [.dlvI2D]

end Sys2Proof.Machine
end

