-- ==== Sys2Proof/Safety.lean ====
section
/-! DEFINITION. What counts as a good state and a good run, in the terms statements use: the invariants of
70_reset_and_hazards.md R325, the named premises of R324, and when a host operation completes. -/

namespace Sys2Proof.Machine

open Sys2Proof

/-! ### Invariants -/

/-- The configuration is legal and MODE is one of its profiles (00_scope.md R7; 10_state.md R21). -/
def ConfigOk (s : State) : Prop :=
  s.cfg.legal = true ∧ s.video.mode.toNat < s.cfg.profiles.length

/-- The raster: SL stays below V_TOTAL (10_state.md R22; R325), VSYNC_OUT is asserted exactly on a VSYNC line while the
display runs (R26), and TICK_PEND is 0 between steps (R24). -/
def RasterInv (s : State) : Prop :=
  ConfigOk s ∧ s.video.sl.toNat < s.profile.vTotal ∧
  s.video.vsyncOut = (s.video.dispEn && s.lineClass == .vsync) ∧ s.video.tickPend = false

/-- The queue: both offsets stay inside the ring, and every stored slot holds a key code (10_state.md R29; 30_encoding.md
R103; R325). -/
def QueueInv (s : State) : Prop :=
  s.cfg.legal = true ∧ s.keys.qWr < s.cfg.queueSlots ∧ s.keys.qRd < s.cfg.queueSlots ∧
  ∀ n, n < queueCount s → ∃ c, memRead s .qb ((s.keys.qRd + n) % s.cfg.queueSlots) = some c ∧
    1 ≤ c.toNat ∧ c.toNat ≤ s.cfg.nkey

/-- The debounce counters stay in their ranges, and a pressed key's repeat counter is not 0 (10_state.md R28;
43_key_debouncer.md R213). -/
def DebounceInv (s : State) : Prop :=
  s.cfg.legal = true ∧ s.keys.ks.length = s.cfg.nkey ∧
  ∀ k ∈ s.keys.ks, k.rel.toNat ≤ s.cfg.keycntRel.toNat ∧
    k.rpt.toNat ≤ max s.cfg.keycntPress.toNat s.cfg.keycntRepeat.toNat ∧ (k.rel ≠ 0 → k.rpt ≠ 0)

/-- The serialiser reads inside its buffers: while a row is armed the display runs, a byte is left to read, and every
offset it can still form lies inside FB, AT and FN (20_memory.md R67; 40_clock_serializer_renderer.md R127). -/
def SerialiserInv (s : State) : Prop :=
  ConfigOk s ∧
  (s.video.ser.busy = true →
    s.video.dispEn = true ∧ s.video.ser.idx < s.video.ser.len ∧
    s.video.ser.base + s.video.ser.len ≤ s.profile.fbSize ∧
    (s.profile.layout = .attr →
      s.video.ser.abase + (s.video.ser.len - 1) / s.profile.cellW < s.profile.atSize) ∧
    (s.profile.layout = .text → s.video.ser.gl < s.profile.charH))

/-- The memoised remap table holds CFG.REMAP once KeyInit has run on a display chip, and no enable is 1 before its Init
has run (20_memory.md R64, R78; 45_host_api.md R263). -/
def MemoInv (s : State) : Prop :=
  s.cfg.legal = true ∧
  (s.video.dispEn = true → s.host.dispReady = true) ∧ (s.keys.keyEn = true → s.host.keyReady = true) ∧
  (s.cfg.role = .display → s.host.keyReady = true → ∀ b, b < 256 → memRead s .rm b = s.cfg.remap[b]?)

/-! ### The operation a host word stands for -/

/-- The operation an instruction performs: a HOST event performs the operation its word spells (30_encoding.md R102). -/
def effective (i : Instr) : Instr :=
  match i with
  | .host w => (decodeH32 w).getD i
  | .sync | .rowHigh | .rowLow | .syncAck | .coldata _ | .keyGet | .joyGet | .keyPressed _ | .keyFlush | .waitVSync
  | .dispIsVSync | .dispInit _ | .dispTerm | .keyInit | .keyTerm | .rdScanline | .rdFrame | .fbWrite _ _ | .fbRead _
  | .atWrite _ _ | .atRead _ | .tick | .serRead | .keyTick | .dlvD2I | .dlvI2D | .dropD2I | .dropI2D | .garbleD2I _
  | .garbleI2D _ | .rspStep | .envKeyIn _ _ | .envColIn _ | .noKey | .lcActive | .lcFront | .lcVSync | .lcBack => i

/-- The chip has a host that is not inside WaitVSync (45_host_api.md R250, R264). -/
def HostReady (s : State) : Prop := s.cfg.role ≠ .input ∧ s.host.wv = .none

/-- The display runs: the steps of the scanline interrupt exist (40_clock_serializer_renderer.md R120). -/
def DisplayRuns (s : State) : Prop := s.cfg.role ≠ .input ∧ s.video.dispEn = true

/-- The next TICK runs slot `n` of a display chip that scans its keys (41_blanking_scheduler.md R157, R158). -/
def SlotComes (s : State) (n : Nat) : Prop :=
  s.cfg.role = .display ∧ s.video.dispEn = true ∧ s.keys.keyEn = true ∧
  (advanceCounters s).lineClass = .back ∧
  slotOf s.profile (advanceCounters s).video.sl.toNat = n

/-- When a host operation completes (45_host_api.md R246 to R261, R263, R264): the chip has a host that is not inside
WaitVSync, and the operation's own precondition holds. -/
def HostOpReady (i : Instr) (s : State) : Prop :=
  HostReady s ∧
  match i with
  | .keyGet => s.host.keyReady = true ∧ (s.keys.qRd = s.keys.qWr ∨ (memRead s .qb s.keys.qRd).isSome = true)
  | .joyGet => s.host.keyReady = true ∧ (s.keys.qRd = s.keys.qWr ∨ (memRead s .qb s.keys.qRd).isSome = true)
  | .keyPressed _ => s.host.keyReady = true
  | .keyFlush => s.host.keyReady = true
  | .waitVSync => True
  | .dispIsVSync => s.host.dispReady = true
  | .dispInit m => s.video.dispEn = false ∧ m.toNat < s.cfg.profiles.length
  | .dispTerm => True
  | .keyInit => s.keys.keyEn = false
  | .keyTerm => True
  | .rdScanline => s.host.dispReady = true
  | .rdFrame => s.host.dispReady = true
  | .fbWrite a _ => a.toNat < fbLimit s
  | .fbRead a => a.toNat < fbLimit s ∧ (memRead s .fb a.toNat).isSome = true
  | .atWrite a _ => a.toNat < atLimit s
  | .atRead a => a.toNat < atLimit s ∧ (memRead s .atr a.toNat).isSome = true
  | .sync | .rowHigh | .rowLow | .syncAck | .coldata _ | .tick | .serRead | .keyTick | .dlvD2I | .dlvI2D | .dropD2I
  | .dropI2D | .garbleD2I _ | .garbleI2D _ | .rspStep | .envKeyIn _ _ | .envColIn _ | .host _ | .noKey | .lcActive
  | .lcFront | .lcVSync | .lcBack => False

/-- The sixteen host operations (30_encoding.md R98). -/
def isHostOp (i : Instr) : Bool := i.space == .host

/-! ### Runs of one component -/

/-- Key `i` sampled asserted `n` times in a row (43_key_debouncer.md R223). -/
def heldFor (i : Nat) : Nat → State → State
  | 0, s => s
  | n + 1, s => debounceKey i true (heldFor i n s)

/-- Key `i` sampled deasserted `n` times in a row (43_key_debouncer.md R217). -/
def releasedFor (i : Nat) : Nat → State → State
  | 0, s => s
  | n + 1, s => debounceKey i false (releasedFor i n s)

/-- The scan ticks, counted from the press, on which a held key queues an event (43_key_debouncer.md R223). -/
def eventTick (press rep n : Nat) : Bool := n == 0 || (decide (press ≤ n) && (n - press) % rep == 0)

/-- Pushes of several codes, in order. -/
def pushAll : List Byte → State → State
  | [], s => s
  | c :: cs, s => pushAll cs (qPush s c)

/-- What `n` pops in a row return. -/
def popMany : Nat → State → List Byte
  | 0, _ => []
  | n + 1, s =>
    match qPop s with
    | .code c t => c :: popMany n t
    | .unwritten _ => []

/-! ### The host's poll at a TICK -/

/-- What the poll at a TICK onto a blank line leaves of the host's side: phase B ends (R250, R105; log 11). -/
def polledBlank (h : HostSide) : HostSide := { h with wv := if h.wv = .phaseB then .none else h.wv }

/-- What the poll at a TICK onto an active line leaves of it: phase A becomes phase B (R250, R105; log 11). -/
def polledActive (h : HostSide) : HostSide := { h with wv := if h.wv = .phaseA then .phaseB else h.wv }

/-! ### One scan tick, key by key -/

/-- A sample of this key queues an event: a first press or a repeat (43_key_debouncer.md R213). -/
def pressEvent (k : KeyState) (a : Bool) : Bool := a && (k.rel == 0 || k.rpt == 1)

/-- The codes a scan step of the samples `as` queues, in ascending key index (43_key_debouncer.md R220). -/
def scanCodes (as : List Bool) (s : State) : List Byte :=
  ((List.range as.length).filter (fun i => pressEvent (keyState s i) (as.getD i false))).map keyCode

/-! ### One row of a bit-banged serialiser -/

/-- How many of the offsets `off 0` to `off (n - 1)` of a space hold no value. -/
def blanks (s : State) (sp : Space) (off : Nat → Nat) (n : Nat) : Nat :=
  ((List.range n).filter (fun m => (memRead s sp (off m)).isNone)).length

/-- What a serialiser read of one byte yields when it would make the draw number `d` (20_memory.md R80; log 10). -/
def readOr (s : State) (sp : Space) (a d : Nat) : Byte := (memRead s sp a).getD (freeByte d)

/-! ### The named premises of R324. `ISR_IN_BUDGET` (R305) is about time: the model arms in the same step and always meets
it. -/

/-- The slot the next TICK will run, if its line is on the back porch. -/
def nextSlot (s : State) : Option Nat :=
  let t := advanceCounters s
  if t.lineClass = .back then some (slotOf t.profile t.video.sl.toNat) else none

/-- `SER_DONE_BEFORE_TICK` (R306): no TICK while a row is unfinished. -/
def SerDoneBeforeTick (i : Instr) (s : State) : Prop := i = .tick → s.video.ser.busy = false

/-- Slot `n` expects a byte: the slot actions run (42_remote_io_protocol.md R193), and the command whose answer the slot
takes was sent. Slot 1 takes the answer to SYNC, slots `2r+2` and `2r+3` the two bytes of row `r` (R176, R177). -/
def SlotExpectsByte (n : Nat) (s : State) : Prop :=
  s.cfg.role = .display ∧ s.video.dispEn = true ∧ s.keys.keyEn = true ∧
  ((n = 1 ∧ s.ini.sess.lastcmd = .sync) ∨
    (2 ≤ n ∧ n ≤ 2 * s.cfg.nrow + 1 ∧ s.ini.sess.row = (n - 2) / 2 ∧
      (s.ini.sess.lastcmd = .rowHigh ∨ s.ini.sess.lastcmd = .rowLow)))

/-- `LINK_RELIABLE` (R311): nothing is lost or corrupted, and a slot that expects a byte finds one. -/
def LinkReliable (i : Instr) (s : State) : Prop :=
  i ≠ .dropD2I ∧ i ≠ .dropI2D ∧ (∀ x, i ≠ .garbleD2I x) ∧ (∀ x, i ≠ .garbleI2D x) ∧
  (i = .tick → ∀ n, nextSlot s = some n → SlotExpectsByte n s → s.ini.rxqD ≠ [])

/-- `LINK_DRAINED` (R312, R324): no byte is in flight when slot 0 runs. R312 speaks of bytes sent and delivered or dropped;
that a command delivered but not yet consumed also counts, because its answer would be of the old frame, is the model's
reading of R324's "no byte of a frame survives" (DEDUCED, log 28). -/
def LinkDrained (i : Instr) (s : State) : Prop :=
  i = .tick → nextSlot s = some 0 → s.link.d2i = [] ∧ s.link.i2d = [] ∧ s.rsp.rxqI = []

/-- Line and frame of the last LINE event of a trace. -/
def lastLine : List TraceEvent → Option (BitVec 32 × BitVec 16)
  | [] => none
  | e :: t =>
    match lastLine t, e with
    | some p, _ => some p
    | none, .line f l _ _ => some (f, l)
    | none, .pix _ _ _ _ _ => none
    | none, .rowsel _ => none

/-- Line `l` is in progress and its TICK has run. The line that DispInit leaves in progress has had none (R317). -/
def LineStarted (l : BitVec 16) (s : State) : Prop :=
  s.video.dispEn = true ∧ s.video.sl = l ∧ lastLine s.out = some (s.video.fr, l)

/-- Offset `a` of FB is a byte of the row line `l` shows (40_clock_serializer_renderer.md R124, R125). -/
def InRowOf (p : VideoProfile) (l : BitVec 16) (a : Nat) : Prop :=
  rowFn p l.toNat < p.fbRows ∧ rowFn p l.toNat * p.fbPitch ≤ a ∧ a < (rowFn p l.toNat + 1) * p.fbPitch

/-- Offset `a` of AT is a byte of the attribute row line `l` shows (R124, R129). -/
def InAttrRowOf (p : VideoProfile) (l : BitVec 16) (a : Nat) : Prop :=
  rowFn p l.toNat < p.fbRows ∧ arowFn p l.toNat * p.atPitch ≤ a ∧ a < (arowFn p l.toNat + 1) * p.atPitch

/-- `HOST_WRITES_BEFORE_LINE` (R307, R324) for line `l`: the host's writes for the line precede its TICK, so once that TICK
has run, and as long as the line is in progress, no host write falls into its row. Writes to other rows are free. -/
def HostWritesBeforeLine (l : BitVec 16) (i : Instr) (s : State) : Prop :=
  LineStarted l s → s.lineClass = .active →
    (∀ a v, effective i = .fbWrite a v → ¬ InRowOf s.profile l a.toNat) ∧
    (∀ a v, effective i = .atWrite a v → ¬ InAttrRowOf s.profile l a.toNat)

/-- `CONSUMER_DRAINS` (R314): the queue holds fewer than QUEUE_CAP events. -/
def ConsumerDrains (s : State) : Prop := queueCount s < s.cfg.queueCap

end Sys2Proof.Machine
end

