-- ==== Sys2Proof/Certificates/Slice0/Obligations.lean ====
section
/-! DEFINITION. The statements for the provers. Each follows the rules its entry of OBLIGATIONS.json cites; a result
statement gives the whole next state, so it is also the operation's frame. -/

open Sys2Proof Sys2Proof.Machine

/-! ### Encodings (30_encoding.md) -/

/-- R90, R91, R94, R95, R98, R100 to R102: decoding the encoding of a well-formed operation, in its own code space, gives it
back and leaves what follows. -/
def Obligations.DecodeOfEncode : Prop :=
  ∀ (k : WireCodes) (i : Instr) (rest : List Byte), k.distinct = true → i.wellFormed = true →
    decodeIn k i.space (encode k i ++ rest) = .ok (i, rest)

/-- The other direction: what decodes is a well-formed operation of that code space, and its bytes are its encoding. For a
data byte this rests on log 4 and for the operands of ENV_KEYIN and ENV_COLIN on log 27, the model's own choices: the decoder
refuses a data byte whose bits 7:5 are not 0, which a receiver ignores (R95), and an operand R102 does not list. In the other one-byte
spaces it rests on log 34: a byte that is no row of the table is refused. -/
def Obligations.EncodeOfDecode : Prop :=
  ∀ (k : WireCodes) (sp : CodeSpace) (bs rest : List Byte) (i : Instr), decodeIn k sp bs = .ok (i, rest) →
    i.wellFormed = true ∧ i.space = sp ∧ bs = encode k i ++ rest

/-- A few words of 95_test_vectors.md, group E, read by the decoder. -/
def Obligations.SpecWordsDecode : Prop :=
  decodeScript [0x10] = .ok (.tick, []) ∧
  decodeScript [0x24, 0x52] = .ok (.garbleD2I 0x52, []) ∧
  decodeScript [0x40, 0x02, 0x01] = .ok (.envKeyIn 2 true, []) ∧
  decodeScript [0x41, 0x03, 0xFE] = .ok (.envColIn 0x3FE, []) ∧
  decodeScript [0x80, 0xC0, 0x00, 0x15, 0xFF] = .ok (.host 0xC00015FF, []) ∧
  decodeH32 0xC00015FF = some (.fbWrite 21 0xFF) ∧
  decodeH32 0x20000004 = some (.keyPressed 4) ∧
  decodeH32 0xF0000200 = some (.atRead 2) ∧
  decodeCommand Config.codes 0x4C = some .rowLow

/-- R99: an H32 word is refused exactly when `rsv` is not 0 or a field its operation does not use is not 0; every selector
is an operation. -/
def Obligations.ReservedHostWordsAreRefused : Prop :=
  ∀ (sel rsv : BitVec 4) (a : BitVec 16) (d : Byte),
    decodeH32 (sel ++ rsv ++ a ++ d) = none ↔
      (rsv ≠ 0 ∨ (sel.toNat < 12 ∧ a ≠ 0) ∨
        (sel.toNat ≠ 2 ∧ sel.toNat ≠ 6 ∧ sel.toNat ≠ 12 ∧ sel.toNat ≠ 14 ∧ d ≠ 0))

/-! ### Steps and scripts -/

/-- The model's own form of R104 (log 2): where the scheduled bytes decode, a step is the operation's meaning on the state
with its bytes taken off the script; where they do not, the step is refused. -/
def Obligations.StepRunsTheDecodedInstruction : Prop :=
  ∀ s : State,
    (∀ i rest, decodeIn s.cfg.codes s.sched.space s.sched.script = .ok (i, rest) →
      step s = exec i { s with sched := { s.sched with script := rest } }) ∧
    (∀ r, decodeIn s.cfg.codes s.sched.space s.sched.script = .error r → step s = .refused (.undecodable r))

/-- R104: stepping through the encoding of a script runs its statements one after the other and leaves what follows it.
That the script stands in the state is the model's choice (log 2). -/
def Obligations.ScriptRunsItsStatements : Prop :=
  ∀ (is : List Instr) (s : State), s.sched.space = .script →
    (∀ i ∈ is, i.space = .script ∧ i.wellFormed = true) →
    Sys2Proof.core.run is.length
        { s with sched := { s.sched with script := encodeScript s.cfg.codes is ++ s.sched.script } } =
      runAll is s

/-! ### The link and the responder (42_remote_io_protocol.md) -/

/-- R184, R185, R186: what the responder does on each of the three wire commands, here as operations of their own that
consume no byte of RXQ_I (the model's choice, log 18). Both data bytes come from one sample of COLIN, in
which a pin the variant does not have reads 1 (R49; which pins it has is a parameter, log 31). -/
def Obligations.CommandsAtTheResponder : Prop :=
  ∀ s : State, s.cfg.role ≠ .single →
    exec .sync s = .next
      { s with
        link := { s.link with i2d := s.link.i2d ++ [s.cfg.codes.rspSyncAck] }
        rsp := { s.rsp with rowsel := true }
        out := s.out ++ [.rowsel true] } ∧
    exec .rowHigh s = .next
      { s with
        link :=
          { s.link with
            i2d := s.link.i2d ++ [0#3 ++ (s.inp.colin ||| ~~~s.cfg.colPins).extractLsb' 0 5] ++ [0#3 ++ (s.inp.colin ||| ~~~s.cfg.colPins).extractLsb' 5 5] }
        rsp := { s.rsp with rowsel := true }
        out := s.out ++ [.rowsel true] } ∧
    exec .rowLow s = .next
      { s with
        link :=
          { s.link with
            i2d := s.link.i2d ++ [0#3 ++ (s.inp.colin ||| ~~~s.cfg.colPins).extractLsb' 0 5] ++ [0#3 ++ (s.inp.colin ||| ~~~s.cfg.colPins).extractLsb' 5 5] }
        rsp := { s.rsp with rowsel := false }
        out := s.out ++ [.rowsel false] }

/-- R183 to R187, R96, R49: RSP_STEP consumes the oldest delivered byte and does what its command says; a reserved byte is
consumed and ignored. Which column pins the variant has, so that the others read 1 in the sample, is a parameter of the
model's own (log 31). -/
def Obligations.RspStepHandlesOneByte : Prop :=
  ∀ (s : State) (c : Byte) (rest : List Byte), s.cfg.role ≠ .single → s.cfg.codes.distinct = true →
    s.rsp.rxqI = c :: rest →
    (c = s.cfg.codes.cmdSync →
      exec .rspStep s = .next
        { s with
          link := { s.link with i2d := s.link.i2d ++ [s.cfg.codes.rspSyncAck] }
          rsp := { rowsel := true, rxqI := rest }
          out := s.out ++ [.rowsel true] }) ∧
    (c = s.cfg.codes.cmdRowHigh →
      exec .rspStep s = .next
        { s with
          link := { s.link with i2d := s.link.i2d ++ [pack0 (columnPins s)] ++ [pack1 (columnPins s)] }
          rsp := { rowsel := true, rxqI := rest }
          out := s.out ++ [.rowsel true] }) ∧
    (c = s.cfg.codes.cmdRowLow →
      exec .rspStep s = .next
        { s with
          link := { s.link with i2d := s.link.i2d ++ [pack0 (columnPins s)] ++ [pack1 (columnPins s)] }
          rsp := { rowsel := false, rxqI := rest }
          out := s.out ++ [.rowsel false] }) ∧
    (c ≠ s.cfg.codes.cmdSync → c ≠ s.cfg.codes.cmdRowHigh → c ≠ s.cfg.codes.cmdRowLow →
      exec .rspStep s = .next { s with rsp := { s.rsp with rxqI := rest } })

/-- R172: the oldest byte in flight is delivered, in order, unchanged. -/
def Obligations.LinkDeliversOldestByte : Prop :=
  ∀ (s : State) (b : Byte) (t : List Byte), s.cfg.role ≠ .single →
    (s.link.d2i = b :: t →
      exec .dlvD2I s = .next
        { s with link := { s.link with d2i := t }, rsp := { s.rsp with rxqI := s.rsp.rxqI ++ [b] } }) ∧
    (s.link.i2d = b :: t →
      exec .dlvI2D s = .next
        { s with link := { s.link with i2d := t }, ini := { s.ini with rxqD := s.ini.rxqD ++ [b] } })

/-- R173, R174: the oldest byte in flight is lost, or replaced by any byte. -/
def Obligations.LinkLosesOrCorruptsOldestByte : Prop :=
  ∀ (s : State) (b x : Byte) (t : List Byte), s.cfg.role ≠ .single →
    (s.link.d2i = b :: t →
      exec .dropD2I s = .next { s with link := { s.link with d2i := t } } ∧
      exec (.garbleD2I x) s = .next { s with link := { s.link with d2i := x :: t } }) ∧
    (s.link.i2d = b :: t →
      exec .dropI2D s = .next { s with link := { s.link with i2d := t } } ∧
      exec (.garbleI2D x) s = .next { s with link := { s.link with i2d := x :: t } })

/-! ### The response bytes at the initiator -/

/-- R94, R95, R176, R177, as operations of their own (the model's choice, log 18): the acknowledgement in slot 1 sets LINK_OK;
a data byte in slot `2r+2` goes to B0REG, one in slot `2r+3` to B1REG. -/
def Obligations.ResponseBytesAreTaken : Prop :=
  ∀ (s : State) (raw : BitVec 5) (r : Nat), s.cfg.role = .display → s.video.dispEn = true → s.keys.keyEn = true →
    r < s.cfg.nrow →
    (s.video.sl.toNat = bpStart s.profile + 1 →
      exec .syncAck s = .next
        { s with ini := { s.ini with linkOk := true, sess := { s.ini.sess with got := 1 } } }) ∧
    (s.video.sl.toNat = bpStart s.profile + (2 * r + 2) →
      exec (.coldata raw) s = .next
        { s with ini := { s.ini with b0 := 0#3 ++ raw, sess := { s.ini.sess with got := 1 } } }) ∧
    (s.video.sl.toNat = bpStart s.profile + (2 * r + 3) →
      exec (.coldata raw) s = .next
        { s with
          ini := { s.ini with b1 := 0#3 ++ raw, sess := { s.ini.sess with got := s.ini.sess.got + 1 } } })

/-! ### Host operations (45_host_api.md) -/

/-- R246, R247, R232: KeyGet and JoyGet pop the oldest event of the one queue, or return NOKEY and change nothing. -/
def Obligations.KeyGetPopsOneEvent : Prop :=
  ∀ s : State, HostReady s → s.host.keyReady = true →
    (s.keys.qRd = s.keys.qWr →
      exec .keyGet s = .next { s with host := { s.host with res := .byte 0 } } ∧
      exec .joyGet s = .next { s with host := { s.host with res := .byte 0 } }) ∧
    (∀ c, s.keys.qRd ≠ s.keys.qWr → memRead s .qb s.keys.qRd = some c →
      exec .keyGet s = .next
        { s with
          keys := { s.keys with qRd := (s.keys.qRd + 1) % (s.cfg.queueCap + 1) }
          host := { s.host with res := .byte c } } ∧
      exec .joyGet s = .next
        { s with
          keys := { s.keys with qRd := (s.keys.qRd + 1) % (s.cfg.queueCap + 1) }
          host := { s.host with res := .byte c } })

/-- R248: KeyPressed answers whether the release counter of a listed key is not 0, and 0 for any other code. -/
def Obligations.KeyPressedAnswers : Prop :=
  ∀ (s : State) (code : Byte), HostReady s → s.host.keyReady = true →
    (∀ k, 1 ≤ code.toNat → code.toNat ≤ s.cfg.nkey → s.keys.ks[code.toNat - 1]? = some k →
      exec (.keyPressed code) s = .next { s with host := { s.host with res := .bit (k.rel != 0) } }) ∧
    (code.toNat = 0 ∨ s.cfg.nkey < code.toNat →
      exec (.keyPressed code) s = .next { s with host := { s.host with res := .bit false } })

/-- R249: KeyFlush moves the consumer's offset to the producer's. -/
def Obligations.KeyFlushEmptiesTheQueue : Prop :=
  ∀ s : State, HostReady s → s.host.keyReady = true →
    exec .keyFlush s = .next
      { s with keys := { s.keys with qRd := s.keys.qWr }, host := { s.host with res := .none } }

/-- R250: WaitVSync enters phase A, which ends at once on an active line (R105; log 11). While the display is stopped the
class is that of the frozen SL in the profile of the last MODE (log 33). -/
def Obligations.WaitVSyncEntersItsPhases : Prop :=
  ∀ s : State, HostReady s →
    (s.lineClass = .active →
      exec .waitVSync s = .next { s with host := { s.host with wv := .phaseB, res := .none } }) ∧
    (s.lineClass ≠ .active →
      exec .waitVSync s = .next { s with host := { s.host with wv := .phaseA, res := .none } })

/-- R251, R256, R257: the host's reads of the raster. While the display is stopped the class is that of the frozen SL in the
profile of the last MODE (log 33). -/
def Obligations.RasterReads : Prop :=
  ∀ s : State, HostReady s → s.host.dispReady = true →
    exec .dispIsVSync s = .next { s with host := { s.host with res := .bit (s.lineClass != .active) } } ∧
    exec .rdScanline s = .next { s with host := { s.host with res := .word16 s.video.sl } } ∧
    exec .rdFrame s = .next { s with host := { s.host with res := .word32 s.video.fr } }

/-- R252: DispInit starts the display; it is refused while the display runs, and for a mode that is no profile. That SER's
fields other than `busy` keep their values is the model's choice (log 26): R53 leaves them unspecified after DispInit. -/
def Obligations.DispInitStartsTheDisplay : Prop :=
  ∀ (s : State) (m : Byte), HostReady s →
    (s.video.dispEn = false → m.toNat < s.cfg.profiles.length →
      exec (.dispInit m) s = .next
        { s with
          video :=
            { dispEn := true, mode := m, sl := 0, fr := 0, tickPend := false,
              ser := { s.video.ser with busy := false }, vsyncOut := false }
          host := { s.host with dispReady := true, res := .none } }) ∧
    (s.video.dispEn = false → s.cfg.profiles.length ≤ m.toNat → exec (.dispInit m) s = .refused .noSuchMode) ∧
    (s.video.dispEn = true → exec (.dispInit m) s = .refused .initWhileRunning)

/-- R253, R255: the two Term operations. -/
def Obligations.TermOperationsStop : Prop :=
  ∀ s : State, HostReady s →
    exec .dispTerm s = .next
      { s with
        video :=
          { s.video with
            dispEn := false, ser := { s.video.ser with busy := false }, tickPend := false, vsyncOut := false }
        host := { s.host with res := .none } } ∧
    exec .keyTerm s = .next
      { s with keys := { s.keys with keyEn := false }, host := { s.host with res := .none } }

/-- R254: KeyInit on either kind of chip; it is refused while scanning runs. -/
def Obligations.KeyInitInitialises : Prop :=
  ∀ s : State, HostReady s →
    (s.keys.keyEn = false → s.cfg.role = .single →
      exec .keyInit s = .next
        { s with
          keys := { keyEn := true, ks := List.replicate s.cfg.nkey { rel := 0, rpt := 0 }, qWr := 0, qRd := 0 }
          host := { s.host with keyReady := true, res := .none } }) ∧
    (s.keys.keyEn = false → s.cfg.role = .display →
      ∃ t, exec .keyInit s = .next t ∧
        t = { s with
              keys := { keyEn := true, ks := List.replicate s.cfg.nkey { rel := 0, rpt := 0 }, qWr := 0, qRd := 0 }
              host := { s.host with keyReady := true, res := .none }
              mem := t.mem
              ini :=
                { matrix := List.replicate s.cfg.nrow 0, b0 := 0x1F, b1 := 0x1F,
                  sess := { lastcmd := .none, got := 0, row := 0 }, linkOk := false, rxqD := [] } } ∧
        (∀ b v, s.cfg.remap[b]? = some v → memRead t .rm b = some v) ∧
        (∀ b, s.cfg.remap[b]? = none → memRead t .rm b = memRead s .rm b) ∧
        (∀ sp a, sp ≠ .rm → memRead t sp a = memRead s sp a)) ∧
    (s.keys.keyEn = true → exec .keyInit s = .refused .initWhileRunning)

/-- R258, R260, R67: a host write stores its byte, and every other byte of every space reads as before; an offset outside
the space is refused. The bound is FB_SIZE or AT_SIZE of the mode while the display runs (while it is stopped: log 12). -/
def Obligations.BufferWrites : Prop :=
  ∀ (s : State) (a : BitVec 16) (v : Byte), HostReady s →
    (s.video.dispEn = true → fbLimit s = s.profile.fbSize ∧ atLimit s = s.profile.atSize) ∧
    (a.toNat < fbLimit s →
      ∃ t, exec (.fbWrite a v) s = .next t ∧
        t = { s with mem := t.mem, host := { s.host with res := .none } } ∧
        memRead t .fb a.toNat = some v ∧
        ∀ sp b, sp ≠ .fb ∨ b ≠ a.toNat → memRead t sp b = memRead s sp b) ∧
    (fbLimit s ≤ a.toNat → exec (.fbWrite a v) s = .refused .outOfRange) ∧
    (a.toNat < atLimit s →
      ∃ t, exec (.atWrite a v) s = .next t ∧
        t = { s with mem := t.mem, host := { s.host with res := .none } } ∧
        memRead t .atr a.toNat = some v ∧
        ∀ sp b, sp ≠ .atr ∨ b ≠ a.toNat → memRead t sp b = memRead s sp b) ∧
    (atLimit s ≤ a.toNat → exec (.atWrite a v) s = .refused .outOfRange)

/-- R259, R261, R67: a host read returns the byte and changes nothing else; an offset outside the space is refused. The
bound is FB_SIZE or AT_SIZE of the mode while the display runs; while it is stopped it is the model's (log 12). -/
def Obligations.BufferReads : Prop :=
  ∀ (s : State) (a : BitVec 16) (v : Byte), HostReady s →
    (s.video.dispEn = true → fbLimit s = s.profile.fbSize ∧ atLimit s = s.profile.atSize) ∧
    (a.toNat < fbLimit s → memRead s .fb a.toNat = some v →
      exec (.fbRead a) s = .next { s with host := { s.host with res := .byte v } }) ∧
    (fbLimit s ≤ a.toNat → exec (.fbRead a) s = .refused .outOfRange) ∧
    (a.toNat < atLimit s → memRead s .atr a.toNat = some v →
      exec (.atRead a) s = .next { s with host := { s.host with res := .byte v } }) ∧
    (atLimit s ≤ a.toNat → exec (.atRead a) s = .refused .outOfRange)

/-- R102, R98: a HOST event completes exactly as the operation its word spells, whenever that operation's own precondition
holds; a word that spells none is refused. For the four buffer operations that precondition bounds the offset by log 12 while
the display is stopped. -/
def Obligations.HostEventRunsItsOperation : Prop :=
  ∀ (w : BitVec 32) (s : State),
    (∀ i, decodeH32 w = some i → HostOpReady i s → ∃ t, exec (.host w) s = .next t ∧ exec i s = .next t) ∧
    (decodeH32 w = none → exec (.host w) s = .refused .reservedHostWord)

/-- R100, R232: NOKEY handed to the host is the byte 0 and changes nothing else (as an operation of its own: log 18). -/
def Obligations.NoKeyIsHandedToTheHost : Prop :=
  ∀ s : State, HostReady s → exec .noKey s = .next { s with host := { s.host with res := .byte 0 } }

/-! ### The environment -/

/-- R49: the environment sets a key input of a single chip, or the column pins of an input chip, and nothing else. -/
def Obligations.EnvironmentSetsInputs : Prop :=
  ∀ (s : State) (index : Byte) (value : Bool) (v : BitVec 10),
    (s.cfg.role = .single → index.toNat < s.cfg.nkey →
      exec (.envKeyIn index value) s = .next
        { s with inp := { s.inp with keyin := s.inp.keyin.set index.toNat value } }) ∧
    (s.cfg.role ≠ .single → exec (.envColIn v) s = .next { s with inp := { s.inp with colin := v } })

/-! ### TICK (40_clock_serializer_renderer.md, 41_blanking_scheduler.md) -/

/-- R121, R122, R24, R26, R150: TICK exists while the display runs, advances SL modulo V_TOTAL and FR on the wrap, and leaves
no request pending. Its trace begins with the LINE event of the line it starts. The class of that line, and VSYNC_OUT, are
given by the line counts. -/
def Obligations.TickAdvancesTheCounters : Prop :=
  ∀ s : State, DisplayRuns s →
    ∃ t more, exec .tick s = .next t ∧
      (s.video.sl.toNat = s.profile.vTotal - 1 → t.video.sl = 0 ∧ t.video.fr = s.video.fr + 1) ∧
      (s.video.sl.toNat ≠ s.profile.vTotal - 1 → t.video.sl = s.video.sl + 1 ∧ t.video.fr = s.video.fr) ∧
      t.video.dispEn = true ∧ t.video.mode = s.video.mode ∧ t.video.tickPend = false ∧
      t.video.vsyncOut = (t.lineClass == .vsync) ∧
      (t.video.vsyncOut = true ↔
        s.profile.vActive + s.profile.vFp ≤ t.video.sl.toNat ∧
        t.video.sl.toNat < s.profile.vActive + s.profile.vFp + s.profile.vSync) ∧
      (t.lineClass = .active ↔ t.video.sl.toNat < s.profile.vActive) ∧
      (t.lineClass = .front ↔
        s.profile.vActive ≤ t.video.sl.toNat ∧ t.video.sl.toNat < s.profile.vActive + s.profile.vFp) ∧
      (t.lineClass = .back ↔ s.profile.vActive + s.profile.vFp + s.profile.vSync ≤ t.video.sl.toNat) ∧
      t.out = s.out ++ .line t.video.fr t.video.sl t.lineClass (t.lineClass == .vsync) :: more ∧
      t.rsp = s.rsp ∧ t.inp = s.inp

/-- R155, R156, R134: on a front-porch or VSYNC line TICK does nothing beyond its steps 1 to 3. That the host's poll ends
phase B at this very TICK is R105 as the model reads it; R250 allows a later return (log 11). -/
def Obligations.TickOnFrontAndSyncLines : Prop :=
  ∀ s : State, DisplayRuns s → s.video.sl.toNat ≠ s.profile.vTotal - 1 →
    (classify s.profile (s.video.sl + 1).toNat = .front →
      exec .tick s = .next
        { s with
          video :=
            { s.video with
              sl := s.video.sl + 1, tickPend := false, ser := { s.video.ser with busy := false }, vsyncOut := false }
          host := { s.host with wv := if s.host.wv = .phaseB then .none else s.host.wv }
          out := s.out ++ [.line s.video.fr (s.video.sl + 1) .front false] }) ∧
    (classify s.profile (s.video.sl + 1).toNat = .vsync →
      exec .tick s = .next
        { s with
          video :=
            { s.video with
              sl := s.video.sl + 1, tickPend := false, ser := { s.video.ser with busy := false }, vsyncOut := true }
          host := { s.host with wv := if s.host.wv = .phaseB then .none else s.host.wv }
          out := s.out ++ [.line s.video.fr (s.video.sl + 1) .vsync true] })

/-- R157, R158, R159: a back-porch line carries no work on a single chip, while KEY_EN is 0, and after the scan slot. That
the host's poll ends phase B at this very TICK is R105 as the model reads it; R250 allows a later return (log 11). -/
def Obligations.IdleBackPorchLines : Prop :=
  ∀ s : State, DisplayRuns s → s.video.sl.toNat ≠ s.profile.vTotal - 1 →
    classify s.profile (s.video.sl + 1).toNat = .back →
    (s.keys.keyEn = false ∨ s.cfg.role = .single ∨
      2 * s.cfg.nrow + 2 < slotOf s.profile (s.video.sl + 1).toNat) →
    exec .tick s = .next
      { s with
        video :=
          { s.video with
            sl := s.video.sl + 1, tickPend := false, ser := { s.video.ser with busy := false }, vsyncOut := false }
        host := { s.host with wv := if s.host.wv = .phaseB then .none else s.host.wv }
        out := s.out ++ [.line s.video.fr (s.video.sl + 1) .back false] }

/-- R125, R124, R133, R123: on an active line TICK arms an SPI serialiser with the row of the line; on a line past the last
row it leaves a serialiser of either kind idle and emits no PIX. With either kind nothing of the keys, the link or the memory
changes, and of the host only phase A of WaitVSync, which becomes phase B (R250; at this very TICK: log 11). -/
def Obligations.ActiveTickArmsTheSerialiser : Prop :=
  ∀ (s : State) (p : VideoProfile) (l : BitVec 16), DisplayRuns s →
    p = s.profile → l = (advanceCounters s).video.sl → classify p l.toNat = .active →
    ∃ t, exec .tick s = .next t ∧
      (s.cfg.serKind = .spi → l.toNat / p.lpr < p.fbRows →
        t.video.ser.busy = true ∧ t.video.ser.line = l ∧ t.video.ser.base = l.toNat / p.lpr * p.fbPitch ∧
        t.video.ser.len = p.fbPitch ∧ t.video.ser.idx = 0 ∧
        (p.layout = .attr → t.video.ser.abase = l.toNat / p.lpar * p.atPitch) ∧
        (p.layout = .text → t.video.ser.gl = l.toNat % p.lpr / p.lpg)) ∧
      (p.fbRows ≤ l.toNat / p.lpr → t.video.ser = { s.video.ser with busy := false }) ∧
      (s.cfg.serKind = .spi ∨ p.fbRows ≤ l.toNat / p.lpr →
        t.out = s.out ++ [.line (advanceCounters s).video.fr l .active false] ∧ t.sched = s.sched) ∧
      t.keys = s.keys ∧ t.ini = s.ini ∧ t.link = s.link ∧ t.mem = s.mem ∧ t.host = polledActive s.host

/-- R175, R134, R123: slot 0 forgets late bytes, opens the session and sends SYNC; nothing is shown. (The host's poll ends
phase B at this very TICK, here and in the slots below: log 11.) -/
def Obligations.SlotZeroSendsSync : Prop :=
  ∀ s : State, SlotComes s 0 →
    ∃ t, exec .tick s = .next t ∧
      t.ini = { s.ini with rxqD := [], sess := { lastcmd := .sync, got := 0, row := 0 } } ∧
      t.link = { s.link with d2i := s.link.d2i ++ [s.cfg.codes.cmdSync] } ∧
      t.keys = s.keys ∧ t.mem = s.mem ∧ t.sched = s.sched ∧
      t.video.ser = { s.video.ser with busy := false } ∧
      t.out = s.out ++ [.line (advanceCounters s).video.fr (advanceCounters s).video.sl .back false] ∧
      t.host = polledBlank s.host

/-- R176, r = 0, R134: slot 1 closes SYNC, with or without a byte, and sends the command of row 0. -/
def Obligations.SlotOneClosesSync : Prop :=
  ∀ s : State, SlotComes s 1 → 0 < s.cfg.nrow →
    ∃ t, exec .tick s = .next t ∧
      (s.ini.rxqD = [] →
        t.ini = { s.ini with
          linkOk := false, sess := { lastcmd := lastOfCmd (cmdOfRow s.cfg 0), got := 0, row := 0 } }) ∧
      (∀ b rest, s.ini.rxqD = b :: rest →
        t.ini = { s.ini with
          linkOk := b == s.cfg.codes.rspSyncAck, rxqD := rest,
          sess := { lastcmd := lastOfCmd (cmdOfRow s.cfg 0), got := 0, row := 0 } }) ∧
      t.link = { s.link with d2i := s.link.d2i ++ [byteOfCmd s.cfg.codes (cmdOfRow s.cfg 0)] } ∧
      t.keys = s.keys ∧ t.mem = s.mem ∧ t.sched = s.sched ∧
      t.video.ser = { s.video.ser with busy := false } ∧
      t.out = s.out ++ [.line (advanceCounters s).video.fr (advanceCounters s).video.sl .back false] ∧
      t.host = polledBlank s.host

/-- R176, r > 0, R179, R191, R134: slot `2r+1` takes the second byte of row `r-1`, or keeps the stale one, decodes the row through
the memoised table, and sends the next row's command if there is one. -/
def Obligations.OddSlotDecodesTheRow : Prop :=
  ∀ (s : State) (r : Nat) (b1 g0 g1 : Byte), 1 ≤ r → r ≤ s.cfg.nrow → SlotComes s (2 * r + 1) →
    b1 = s.ini.rxqD.headD s.ini.b1 →
    memRead s .rm s.ini.b0.toNat = some g0 → memRead s .rm b1.toNat = some g1 →
    ∃ t, exec .tick s = .next t ∧
      t.ini.matrix = s.ini.matrix.set (r - 1) (BitVec.ofNat 10 (((g0.toNat <<< 5) ||| g1.toNat) % 2 ^ s.cfg.ncol)) ∧
      t.ini.b0 = s.ini.b0 ∧ t.ini.b1 = b1 ∧ t.ini.rxqD = s.ini.rxqD.tail ∧ t.ini.linkOk = s.ini.linkOk ∧
      (r < s.cfg.nrow →
        t.ini.sess = { lastcmd := lastOfCmd (cmdOfRow s.cfg r), got := 0, row := r } ∧
        t.link = { s.link with d2i := s.link.d2i ++ [byteOfCmd s.cfg.codes (cmdOfRow s.cfg r)] }) ∧
      (r = s.cfg.nrow →
        t.link = s.link ∧
        t.ini.sess =
          { s.ini.sess with got := if s.ini.rxqD = [] then s.ini.sess.got else s.ini.sess.got + 1 }) ∧
      t.keys = s.keys ∧ t.mem = s.mem ∧ t.sched = s.sched ∧
      t.video.ser = { s.video.ser with busy := false } ∧
      t.out = s.out ++ [.line (advanceCounters s).video.fr (advanceCounters s).video.sl .back false] ∧
      t.host = polledBlank s.host

/-- R177, R134: slot `2r+2` takes the first byte of row `r`, or keeps the stale one; nothing is sent. -/
def Obligations.EvenSlotTakesTheFirstByte : Prop :=
  ∀ (s : State) (r : Nat), r < s.cfg.nrow → SlotComes s (2 * r + 2) →
    ∃ t, exec .tick s = .next t ∧
      (s.ini.rxqD = [] → t.ini = s.ini) ∧
      (∀ b rest, s.ini.rxqD = b :: rest →
        t.ini = { s.ini with b0 := b, rxqD := rest, sess := { s.ini.sess with got := 1 } }) ∧
      t.link = s.link ∧ t.keys = s.keys ∧ t.mem = s.mem ∧ t.sched = s.sched ∧
      t.video.ser = { s.video.ser with busy := false } ∧
      t.out = s.out ++ [.line (advanceCounters s).video.fr (advanceCounters s).video.sl .back false] ∧
      t.host = polledBlank s.host

/-- R158, R212, R211, R134: slot `2*NROW+2` debounces every key in ascending order on the matrix bits KEYMAP assigns, and closes
the session. -/
def Obligations.ScanSlotDebouncesEveryKey : Prop :=
  ∀ s : State, SlotComes s (2 * s.cfg.nrow + 2) →
    ∃ t u, exec .tick s = .next t ∧
      u = debounceFrom 0 ((List.range s.cfg.nkey).map (rawMatrix s.cfg s.ini.matrix)) s ∧
      t.keys = u.keys ∧ t.mem = u.mem ∧
      t.ini = { s.ini with sess := { lastcmd := .none, got := 0, row := 0 } } ∧ t.link = s.link ∧ t.sched = s.sched ∧
      t.video.ser = { s.video.ser with busy := false } ∧
      t.out = s.out ++ [.line (advanceCounters s).video.fr (advanceCounters s).video.sl .back false] ∧
      t.host = polledBlank s.host

/-! ### SER_READ and the line classes -/

/-- R127 to R130, R107, R66, R80: a SER_READ always completes; it shifts out one element of the layout, advances SER.idx and
clears SER.busy after the last byte. A byte of FB or AT that nothing has written is the next free byte, whatever it is, the
one of FB first (the free byte and its counter are the model's, log 10). The pixels of a byte go out bit 7 first; that a PIX
event carries them as a field is the model's choice (log 30). -/
def Obligations.SerReadShiftsOneElement : Prop :=
  ∀ (s : State) (r : Serialiser) (fb atr : Option Byte) (d : Nat) (after : Byte → Option Byte → Pixels → Nat → State),
    s.cfg.role ≠ .input → s.cfg.serKind = .spi → r = s.video.ser → r.busy = true → d = s.sched.draws →
    fb = memRead s .fb (r.base + r.idx) → atr = memRead s .atr (r.abase + r.idx / s.profile.cellW) →
    (after = fun v a px n =>
      { s with
        video := { s.video with ser := { r with idx := r.idx + 1, busy := decide (r.idx + 1 ≠ r.len) } }
        out := s.out ++ [.pix r.line r.idx v a px]
        sched := { s.sched with draws := d + n } }) →
    (∃ t, exec .serRead s = .next t) ∧
    (s.profile.layout = .gfx1 →
      (∀ b, fb = some b → exec .serRead s = .next (after b none (.bits (bitPixels b)) 0)) ∧
      (fb = none → exec .serRead s = .next (after (freeByte d) none (.bits (bitPixels (freeByte d))) 1))) ∧
    (s.profile.layout = .gfx8 →
      (∀ b, fb = some b → exec .serRead s = .next (after b none (.level b) 0)) ∧
      (fb = none → exec .serRead s = .next (after (freeByte d) none (.level (freeByte d)) 1))) ∧
    (s.profile.layout = .attr →
      (∀ b a, fb = some b → atr = some a → exec .serRead s = .next (after b (some a) (.bits (bitPixels b)) 0)) ∧
      (∀ b, fb = some b → atr = none →
        exec .serRead s = .next (after b (some (freeByte d)) (.bits (bitPixels b)) 1)) ∧
      (∀ a, fb = none → atr = some a →
        exec .serRead s = .next (after (freeByte d) (some a) (.bits (bitPixels (freeByte d))) 1)) ∧
      (fb = none → atr = none →
        exec .serRead s =
          .next (after (freeByte d) (some (freeByte (d + 1))) (.bits (bitPixels (freeByte d))) 2))) ∧
    (s.profile.layout = .text →
      (∀ ch g, fb = some ch → memRead s .fn (ch.toNat * s.profile.charH + r.gl) = some g →
        exec .serRead s = .next (after g none (.bits (bitPixels g)) 0)) ∧
      (∀ g, fb = none → memRead s .fn ((freeByte d).toNat * s.profile.charH + r.gl) = some g →
        exec .serRead s = .next (after g none (.bits (bitPixels g)) 1))) ∧
    (∀ b : Byte, (bitPixels b).length = 8 ∧ ∀ n, n < 8 → (bitPixels b)[n]? = some (b.getLsbD (7 - n)))

/-- R101, R121 steps 3 and 4, as operations of their own (the model's choice, log 18): the code of the class of the line in
progress sets VSYNC_OUT, emits LINE and does the class's work. -/
def Obligations.LineClassCodesRun : Prop :=
  ∀ s : State, DisplayRuns s →
    (s.lineClass = .front →
      exec .lcFront s = .next
        { s with video := { s.video with vsyncOut := false },
                 out := s.out ++ [.line s.video.fr s.video.sl .front false] }) ∧
    (s.lineClass = .vsync →
      exec .lcVSync s = .next
        { s with video := { s.video with vsyncOut := true },
                 out := s.out ++ [.line s.video.fr s.video.sl .vsync true] }) ∧
    (s.lineClass = .active →
      exec .lcActive s = .next
        (render { s with video := { s.video with vsyncOut := false },
                         out := s.out ++ [.line s.video.fr s.video.sl .active false] })) ∧
    (s.lineClass = .back →
      exec .lcBack s = .next
        (backSlot (s.video.sl.toNat - bpStart s.profile)
          { s with video := { s.video with vsyncOut := false },
                   out := s.out ++ [.line s.video.fr s.video.sl .back false] }))

/-! ### The debouncer and the queue (43_key_debouncer.md, 44_input_event_queue.md) -/

/-- R224, R212: KEYTICK runs the scan step on the local key inputs, in ascending order. -/
def Obligations.KeyTickScansEveryKey : Prop :=
  ∀ s : State, s.cfg.role = .single → s.keys.keyEn = true →
    exec .keyTick s =
      .next (debounceFrom 0 ((List.range s.cfg.nkey).map (fun i => s.inp.keyin.getD i false)) s)

/-- R213: the five cases of one key and one sample. -/
def Obligations.DebounceKeyTransitions : Prop :=
  ∀ (s : State) (i : Nat) (k : KeyState), s.keys.ks[i]? = some k →
    (k.rel = 0 →
      debounceKey i true s =
        qPush { s with keys := { s.keys with
          ks := s.keys.ks.set i { rel := s.cfg.keycntRel, rpt := s.cfg.keycntPress } } } (BitVec.ofNat 8 (i + 1))) ∧
    (k.rel ≠ 0 → k.rpt = 1 →
      debounceKey i true s =
        qPush { s with keys := { s.keys with
          ks := s.keys.ks.set i { rel := s.cfg.keycntRel, rpt := s.cfg.keycntRepeat } } } (BitVec.ofNat 8 (i + 1))) ∧
    (k.rel ≠ 0 → k.rpt ≠ 1 →
      debounceKey i true s =
        { s with keys := { s.keys with ks := s.keys.ks.set i { rel := s.cfg.keycntRel, rpt := k.rpt - 1 } } }) ∧
    (k.rel ≠ 0 →
      debounceKey i false s =
        { s with keys := { s.keys with ks := s.keys.ks.set i { rel := k.rel - 1, rpt := k.rpt } } }) ∧
    (k.rel = 0 → debounceKey i false s = s)

/-- R212, R220, R221: one scan step, key by key. Every key is debounced once, on its own sample; `KS[i]` changes as
DEBOUNCE_KEY of that key and sample alone changes it; the codes are pushed in ascending key index; nothing else changes. -/
def Obligations.ScanWorksKeyByKey : Prop :=
  ∀ (s u v : State) (as : List Bool), s.keys.ks.length = as.length → u = debounceFrom 0 as s →
    v = pushAll (scanCodes as s) s →
    (∀ i a, as[i]? = some a → u.keys.ks[i]? = (debounceKey i a s).keys.ks[i]?) ∧
    u.keys.ks.length = s.keys.ks.length ∧ u.keys.qWr = v.keys.qWr ∧ u.mem = v.mem ∧
    u = { s with keys := { s.keys with ks := u.keys.ks, qWr := u.keys.qWr }, mem := u.mem }

/-- R231: a push onto a queue that is not full fills the slot at the write offset and publishes it; onto a full queue it
changes nothing. -/
def Obligations.PushStoresOrDrops : Prop :=
  ∀ (s : State) (c : Byte),
    ((s.keys.qWr + 1) % (s.cfg.queueCap + 1) = s.keys.qRd → qPush s c = s) ∧
    ((s.keys.qWr + 1) % (s.cfg.queueCap + 1) ≠ s.keys.qRd →
      qPush s c =
        { s with
          keys := { s.keys with qWr := (s.keys.qWr + 1) % (s.cfg.queueCap + 1) }
          mem := (qPush s c).mem } ∧
      memRead (qPush s c) .qb s.keys.qWr = some c ∧
      ∀ sp a, sp ≠ .qb ∨ a ≠ s.keys.qWr → memRead (qPush s c) sp a = memRead s sp a)

/-- R223, R214 to R216: a key Idle before tick 0 and held on ticks 0 to `n` queues its code on tick `n` exactly when `n` is 0,
KEYCNT_PRESS, or KEYCNT_PRESS plus a multiple of KEYCNT_REPEAT (a full queue drops it). -/
def Obligations.HeldKeyEvents : Prop :=
  ∀ (s a b : State) (i n : Nat) (k : KeyState), s.cfg.legal = true → s.keys.ks[i]? = some k → k.rel = 0 →
    a = heldFor i n s → b = heldFor i (n + 1) s →
    (keyState b i).rel = s.cfg.keycntRel ∧
    (eventTick s.cfg.keycntPress.toNat s.cfg.keycntRepeat.toNat n = true → queueFull a = false →
      memRead b .qb a.keys.qWr = some (keyCode i) ∧ b.keys.qWr = ringNext s.cfg a.keys.qWr) ∧
    (eventTick s.cfg.keycntPress.toNat s.cfg.keycntRepeat.toNat n = true → queueFull a = true →
      b.keys.qWr = a.keys.qWr ∧ b.mem = a.mem) ∧
    (eventTick s.cfg.keycntPress.toNat s.cfg.keycntRepeat.toNat n = false →
      b.keys.qWr = a.keys.qWr ∧ b.mem = a.mem)

/-- R217, R218, R225: `j` deasserted samples take `j` off the release counter and nothing else; short of KEYCNT_REL the key
stays pressed and the next asserted sample is no first press: the count toward the repeat goes on from `p`; at KEYCNT_REL it
is Idle. -/
def Obligations.GlitchIsAbsorbed : Prop :=
  ∀ (s u : State) (i j : Nat) (p : Byte), s.cfg.legal = true → i < s.cfg.nkey →
    s.keys.ks[i]? = some { rel := s.cfg.keycntRel, rpt := p } → j ≤ s.cfg.keycntRel.toNat → u = releasedFor i j s →
    (keyState u i).rel.toNat = s.cfg.keycntRel.toNat - j ∧ (keyState u i).rpt = p ∧
    u.keys.qWr = s.keys.qWr ∧ u.mem = s.mem ∧
    (j < s.cfg.keycntRel.toNat → keyPressedFlag u (keyCode i) = true) ∧
    (j < s.cfg.keycntRel.toNat →
      keyState (debounceKey i true u) i =
        { rel := s.cfg.keycntRel, rpt := if p = 1 then s.cfg.keycntRepeat else p - 1 }) ∧
    (j < s.cfg.keycntRel.toNat → p ≠ 1 →
      (debounceKey i true u).mem = s.mem ∧ (debounceKey i true u).keys.qWr = s.keys.qWr) ∧
    (j = s.cfg.keycntRel.toNat → keyPressedFlag u (keyCode i) = false)

/-- R236, R237: pushes onto an empty queue keep the oldest QUEUE_CAP events, and pops drain them in order, then return
NOKEY. -/
def Obligations.QueueKeepsOldestInOrder : Prop :=
  ∀ (s : State) (l : List Byte) (n : Nat), s.keys.qWr < s.cfg.queueSlots → s.keys.qRd = s.keys.qWr →
    popMany n (pushAll l s) = (l.take s.cfg.queueCap ++ List.replicate n noKeyCode).take n

/-! ### Whole lines, frames and exchanges -/

/-- R39: after exactly V_TOTAL ticks SL is back where it was and FR has advanced by exactly 1. -/
def Obligations.FrameAdvanceLaw : Prop :=
  ∀ s : State, RasterInv s → DisplayRuns s →
    ∃ t, runAll (List.replicate s.profile.vTotal .tick) s = .next t ∧
      t.video.sl = s.video.sl ∧ t.video.fr = s.video.fr + 1

/-- R131, R137, R123, R127 to R130, R80: with a bit-banged serialiser the TICK of an active line with a row contributes exactly its
LINE event and then its whole row, byte by byte in ascending order, as the buffers held it at the tick, in each layout. A
byte nothing has written is the next free byte, the draws counted in the order of the reads (the model's free value, log 10);
the pixels a PIX event carries are a field of the model's own (log 30). Keys, initiator and link keep their values, and of the
host only phase A of WaitVSync changes, into phase B (log 11). -/
def Obligations.BitbangLineShowsItsRow : Prop :=
  ∀ (s : State) (p : VideoProfile) (l : BitVec 16) (fb atr : Nat → Nat) (d : Nat) (lead : List TraceEvent),
    DisplayRuns s → s.cfg.serKind = .bitbang → p = s.profile → l = (advanceCounters s).video.sl →
    classify p l.toNat = .active → l.toNat / p.lpr < p.fbRows → 0 < p.fbPitch →
    (fb = fun n => l.toNat / p.lpr * p.fbPitch + n) → (atr = fun n => l.toNat / p.lpar * p.atPitch + n / p.cellW) →
    d = s.sched.draws → lead = s.out ++ [.line (advanceCounters s).video.fr l .active false] →
    ∃ t, exec .tick s = .next t ∧
      t.video.ser.busy = false ∧ t.video.ser.idx = p.fbPitch ∧ t.mem = s.mem ∧
      t.keys = s.keys ∧ t.ini = s.ini ∧ t.link = s.link ∧ t.host = polledActive s.host ∧
      (p.layout = .gfx1 → t.sched.draws = d + blanks s .fb fb p.fbPitch ∧
        t.out = lead ++ (List.range p.fbPitch).map (fun n =>
          let v := readOr s .fb (fb n) (d + blanks s .fb fb n)
          .pix l n v none (.bits (bitPixels v)))) ∧
      (p.layout = .gfx8 → t.sched.draws = d + blanks s .fb fb p.fbPitch ∧
        t.out = lead ++ (List.range p.fbPitch).map (fun n =>
          let v := readOr s .fb (fb n) (d + blanks s .fb fb n)
          .pix l n v none (.level v))) ∧
      (p.layout = .attr → t.sched.draws = d + blanks s .fb fb p.fbPitch + blanks s .atr atr p.fbPitch ∧
        t.out = lead ++ (List.range p.fbPitch).map (fun n =>
          let v := readOr s .fb (fb n) (d + blanks s .fb fb n + blanks s .atr atr n)
          .pix l n v (some (readOr s .atr (atr n) (d + blanks s .fb fb (n + 1) + blanks s .atr atr n)))
            (.bits (bitPixels v)))) ∧
      (∀ glyph : Byte → Byte, p.layout = .text →
        (∀ ch, memRead s .fn (ch.toNat * p.charH + l.toNat % p.lpr / p.lpg) = some (glyph ch)) →
        t.sched.draws = d + blanks s .fb fb p.fbPitch ∧
        t.out = lead ++ (List.range p.fbPitch).map (fun n =>
          let v := glyph (readOr s .fb (fb n) (d + blanks s .fb fb n))
          .pix l n v none (.bits (bitPixels v))))

/-- R183, R185, R96, R177, R176, R190, R97: with the default remap table a row command at the head of the responder's queue,
its RSP_STEP, both deliveries in time and the two slots that take its bytes put the sampled columns into MATRIX: raw bit `j`
low is column `10 - j`. (With ten columns a legal configuration has all ten pins: log 31.) -/
def Obligations.RowExchangeDecodesTheColumns : Prop :=
  ∀ (s : State) (r : Nat) (cmd : RowCmd) (rest : List Byte), RasterInv s → r < s.cfg.nrow →
    s.rsp.rxqI = byteOfCmd s.cfg.codes cmd :: rest →
    SlotComes s (2 * r + 2) → s.cfg.ncol = 10 → s.ini.matrix.length = s.cfg.nrow →
    (∀ b : Byte, memRead s .rm b.toNat = some (Config.remapByte b)) →
    s.link.i2d = [] → s.ini.rxqD = [] →
    ∃ t, runAll [.rspStep, .dlvI2D, .dlvI2D, .tick, .tick] s = .next t ∧ t.rsp.rxqI = rest ∧
      ∀ j, j < 10 → (t.ini.matrix.getD r 0).getLsbD (9 - j) = !s.inp.colin.getLsbD j

/-- R250, R76: while the host is inside WaitVSync it has no other step, and it comes back only in blanking. That only the TICK
itself brings it back is R105 as the model reads it; R250 allows a later return (log 11). -/
def Obligations.WaitVSyncReturnsInBlanking : Prop :=
  ∀ (i : Instr) (s t : State), s.host.wv ≠ .none →
    (s.cfg.role ≠ .input → isHostOp (effective i) = true → exec i s = .refused .hostWaiting) ∧
    (exec i s = .next t → t.host.wv = .none →
      i = .tick ∧ s.host.wv = .phaseB ∧ isVBlank t = true)

/-! ### Rules of the whole machine -/

/-- R37: no operation changes the configuration, and only KeyInit changes a byte of the memoised table. -/
def Obligations.ConfigurationNeverChanges : Prop :=
  ∀ (i : Instr) (s t : State), exec i s = .next t →
    t.cfg = s.cfg ∧ ∀ b, memRead t .rm b ≠ memRead s .rm b → effective i = .keyInit

/-- R263, R21, R27: the four Init and Term operations are the only ones that change an enable or the mode. -/
def Obligations.OnlyInitAndTermChangeAnEnable : Prop :=
  ∀ (i : Instr) (s t : State), exec i s = .next t →
    (t.video.dispEn ≠ s.video.dispEn → (∃ m, effective i = .dispInit m) ∨ effective i = .dispTerm) ∧
    (t.video.mode ≠ s.video.mode → ∃ m, effective i = .dispInit m) ∧
    (t.keys.keyEn ≠ s.keys.keyEn → effective i = .keyInit ∨ effective i = .keyTerm)

/-- R286, R287: no step outside the host writes FB, AT, Q.rd, an enable or the host's results. -/
def Obligations.OnlyTheHostWritesItsState : Prop :=
  ∀ (i : Instr) (s t : State), isHostOp (effective i) = false → i ≠ .noKey → exec i s = .next t →
    (∀ a, memRead t .fb a = memRead s .fb a) ∧ (∀ a, memRead t .atr a = memRead s .atr a) ∧
    t.keys.qRd = s.keys.qRd ∧ t.video.dispEn = s.video.dispEn ∧ t.keys.keyEn = s.keys.keyEn ∧
    t.host.res = s.host.res ∧ t.host.dispReady = s.host.dispReady ∧ t.host.keyReady = s.host.keyReady

/-- R52, R286, R287: the host writes no interrupt-owned state but through Init and Term: the display group only by DispInit
and DispTerm, the key counters, the write offset and the protocol registers only by KeyInit. -/
def Obligations.HostLeavesInterruptOwnedState : Prop :=
  ∀ (i : Instr) (s t : State), isHostOp (effective i) = true → exec i s = .next t →
    ((∀ m, effective i ≠ .dispInit m) → effective i ≠ .dispTerm → t.video = s.video) ∧
    (effective i ≠ .keyInit →
      t.keys.ks = s.keys.ks ∧ t.keys.qWr = s.keys.qWr ∧ t.ini = s.ini ∧
      (∀ a, memRead t .qb a = memRead s .qb a) ∧ (∀ a, memRead t .rm a = memRead s .rm a)) ∧
    t.rsp = s.rsp ∧ t.link = s.link ∧ t.inp = s.inp ∧ t.out = s.out ∧ t.sched = s.sched

/-- R121, R127, R224, R172 to R174, R183, R264: a step whose precondition fails does not exist. -/
def Obligations.DisabledStepsDoNotExist : Prop :=
  ∀ (s : State) (x : Byte),
    (s.cfg.role ≠ .input → s.video.dispEn = false → exec .tick s = .refused .displayStopped) ∧
    (s.cfg.role ≠ .input → s.cfg.serKind = .spi → s.video.ser.busy = false →
      exec .serRead s = .refused .serialiserIdle) ∧
    (s.cfg.role = .single → s.keys.keyEn = false → exec .keyTick s = .refused .keysStopped) ∧
    (s.cfg.role ≠ .single → s.rsp.rxqI = [] → exec .rspStep s = .refused .nothingReceived) ∧
    (s.cfg.role ≠ .single → s.link.d2i = [] →
      exec .dlvD2I s = .refused .channelEmpty ∧ exec .dropD2I s = .refused .channelEmpty ∧
      exec (.garbleD2I x) s = .refused .channelEmpty) ∧
    (s.cfg.role ≠ .single → s.link.i2d = [] →
      exec .dlvI2D s = .refused .channelEmpty ∧ exec .dropI2D s = .refused .channelEmpty ∧
      exec (.garbleI2D x) s = .refused .channelEmpty) ∧
    (∀ i, s.cfg.role = .input → isHostOp i = true → exec i s = .refused .noSuchAgent)

/-- R263, R80 (93_implementation_defined.md U1): a host read of state that nothing has written yet faults. That KeyPressed
faults for every code is log 9, and the bound below which a buffer read faults while the display is stopped is log 12. -/
def Obligations.UninitialisedReadsFault : Prop :=
  ∀ (s : State) (code : Byte) (a : BitVec 16), HostReady s →
    (s.host.dispReady = false →
      exec .rdScanline s = .fault .displayNotInitialised ∧ exec .rdFrame s = .fault .displayNotInitialised ∧
      exec .dispIsVSync s = .fault .displayNotInitialised) ∧
    (s.host.keyReady = false →
      exec .keyGet s = .fault .keysNotInitialised ∧ exec .joyGet s = .fault .keysNotInitialised ∧
      exec (.keyPressed code) s = .fault .keysNotInitialised ∧ exec .keyFlush s = .fault .keysNotInitialised) ∧
    (a.toNat < fbLimit s → memRead s .fb a.toNat = none → exec (.fbRead a) s = .fault (.unwrittenByte .fb a.toNat)) ∧
    (a.toNat < atLimit s → memRead s .atr a.toNat = none → exec (.atRead a) s = .fault (.unwrittenByte .atr a.toNat))

/-! ### Invariants every step keeps -/

/-- Every memory keeps its canonical form (20_memory.md; log 8). -/
def Obligations.StepKeepsMemoryCanonical : Prop :=
  ∀ s t : State, s.mem.wf = true → step s = .next t → t.mem.wf = true

/-- R325, R22, R26, R24: SL stays below V_TOTAL, VSYNC_OUT marks the VSYNC lines, no request stays pending. -/
def Obligations.StepKeepsTheRaster : Prop :=
  ∀ s t : State, RasterInv s → step s = .next t → RasterInv t

/-- R325, R29, R103: the queue offsets stay in the ring and every stored slot holds a key code in `1 .. NKEY`. -/
def Obligations.StepKeepsTheQueue : Prop :=
  ∀ s t : State, QueueInv s → step s = .next t → QueueInv t

/-- R28, R213: the debounce counters stay in their ranges and a pressed key's repeat counter is never 0. -/
def Obligations.StepKeepsTheDebounceRanges : Prop :=
  ∀ s t : State, DebounceInv s → step s = .next t → DebounceInv t

/-- R67, R127: the serialiser never forms an offset outside its buffers. -/
def Obligations.StepKeepsTheSerialiserInside : Prop :=
  ∀ s t : State, SerialiserInv s → step s = .next t → SerialiserInv t

/-- R64, R78, R263: the memoised table holds CFG.REMAP from KeyInit on, and no enable is 1 before its Init has run. -/
def Obligations.StepKeepsTheMemoisedTable : Prop :=
  ∀ s t : State, MemoInv s → step s = .next t → MemoInv t

/-- The state after reset meets every invariant above (with the reset values of logs 5 to 9). -/
def Obligations.ResetMeetsTheInvariants : Prop :=
  State.reset.mem.wf = true ∧ RasterInv State.reset ∧ QueueInv State.reset ∧ DebounceInv State.reset ∧
  SerialiserInv State.reset ∧ MemoInv State.reset

/-- R301: the values the spec gives after hardware reset, for every configuration, every byte of FB, AT, QB and RM without a
value, FN holding the font in layout TEXT and empty in any other (R60; the profile is that of MODE, whose value here is
log 5's), and no step of CLK, SER or KT enabled. A legal configuration is instantiated, an illegal one
refused (R7, 93_implementation_defined.md U13), with the model's own wider legality (log 15). -/
def Obligations.ResetValues : Prop :=
  ∀ c : Cfg,
    (State.resetWith c).video.dispEn = false ∧ (State.resetWith c).keys.keyEn = false ∧
    (State.resetWith c).video.tickPend = false ∧ (State.resetWith c).video.ser.busy = false ∧
    (State.resetWith c).video.vsyncOut = false ∧ (State.resetWith c).ini.rxqD = [] ∧
    (State.resetWith c).rsp.rxqI = [] ∧ (State.resetWith c).link = { d2i := [], i2d := [] } ∧
    (State.resetWith c).host.wv = .none ∧ (State.resetWith c).out = [] ∧
    (∀ sp a, sp ≠ .fn → memRead (State.resetWith c) sp a = none) ∧
    (∀ a, memRead (State.resetWith c) .fn a =
      if (State.resetWith c).profile.layout = .text then (State.resetWith c).profile.font[a]? else none) ∧
    (∀ i, i = .tick ∨ i = .serRead ∨ i = .keyTick → ∃ r, exec i (State.resetWith c) = .refused r) ∧
    (c.legal = true → instantiate c = .next (State.resetWith c)) ∧
    (c.legal = false → instantiate c = .refused .illegalConfig)
end

