-- ==== Sys2Proof/Laws/State.lean ====
section
/-! SUPPORT. What each field reads after each update of State: one lemma per field per update, all true by rfl, so that no
later proof unfolds a record update. -/

namespace Sys2Proof.Machine

section

variable (s : State)

@[simp] theorem State.withVideo_cfg (v : Video) : (s.withVideo v).cfg = s.cfg := rfl
@[simp] theorem State.withVideo_video (v : Video) : (s.withVideo v).video = v := rfl
@[simp] theorem State.withVideo_keys (v : Video) : (s.withVideo v).keys = s.keys := rfl
@[simp] theorem State.withVideo_ini (v : Video) : (s.withVideo v).ini = s.ini := rfl
@[simp] theorem State.withVideo_rsp (v : Video) : (s.withVideo v).rsp = s.rsp := rfl
@[simp] theorem State.withVideo_link (v : Video) : (s.withVideo v).link = s.link := rfl
@[simp] theorem State.withVideo_mem (v : Video) : (s.withVideo v).mem = s.mem := rfl
@[simp] theorem State.withVideo_inp (v : Video) : (s.withVideo v).inp = s.inp := rfl
@[simp] theorem State.withVideo_host (v : Video) : (s.withVideo v).host = s.host := rfl
@[simp] theorem State.withVideo_sched (v : Video) : (s.withVideo v).sched = s.sched := rfl
@[simp] theorem State.withVideo_out (v : Video) : (s.withVideo v).out = s.out := rfl

@[simp] theorem State.withKeys_cfg (k : Keys) : (s.withKeys k).cfg = s.cfg := rfl
@[simp] theorem State.withKeys_video (k : Keys) : (s.withKeys k).video = s.video := rfl
@[simp] theorem State.withKeys_keys (k : Keys) : (s.withKeys k).keys = k := rfl
@[simp] theorem State.withKeys_ini (k : Keys) : (s.withKeys k).ini = s.ini := rfl
@[simp] theorem State.withKeys_rsp (k : Keys) : (s.withKeys k).rsp = s.rsp := rfl
@[simp] theorem State.withKeys_link (k : Keys) : (s.withKeys k).link = s.link := rfl
@[simp] theorem State.withKeys_mem (k : Keys) : (s.withKeys k).mem = s.mem := rfl
@[simp] theorem State.withKeys_inp (k : Keys) : (s.withKeys k).inp = s.inp := rfl
@[simp] theorem State.withKeys_host (k : Keys) : (s.withKeys k).host = s.host := rfl
@[simp] theorem State.withKeys_sched (k : Keys) : (s.withKeys k).sched = s.sched := rfl
@[simp] theorem State.withKeys_out (k : Keys) : (s.withKeys k).out = s.out := rfl

@[simp] theorem State.withIni_cfg (p : Initiator) : (s.withIni p).cfg = s.cfg := rfl
@[simp] theorem State.withIni_video (p : Initiator) : (s.withIni p).video = s.video := rfl
@[simp] theorem State.withIni_keys (p : Initiator) : (s.withIni p).keys = s.keys := rfl
@[simp] theorem State.withIni_ini (p : Initiator) : (s.withIni p).ini = p := rfl
@[simp] theorem State.withIni_rsp (p : Initiator) : (s.withIni p).rsp = s.rsp := rfl
@[simp] theorem State.withIni_link (p : Initiator) : (s.withIni p).link = s.link := rfl
@[simp] theorem State.withIni_mem (p : Initiator) : (s.withIni p).mem = s.mem := rfl
@[simp] theorem State.withIni_inp (p : Initiator) : (s.withIni p).inp = s.inp := rfl
@[simp] theorem State.withIni_host (p : Initiator) : (s.withIni p).host = s.host := rfl
@[simp] theorem State.withIni_sched (p : Initiator) : (s.withIni p).sched = s.sched := rfl
@[simp] theorem State.withIni_out (p : Initiator) : (s.withIni p).out = s.out := rfl

@[simp] theorem State.withRsp_cfg (r : Responder) : (s.withRsp r).cfg = s.cfg := rfl
@[simp] theorem State.withRsp_video (r : Responder) : (s.withRsp r).video = s.video := rfl
@[simp] theorem State.withRsp_keys (r : Responder) : (s.withRsp r).keys = s.keys := rfl
@[simp] theorem State.withRsp_ini (r : Responder) : (s.withRsp r).ini = s.ini := rfl
@[simp] theorem State.withRsp_rsp (r : Responder) : (s.withRsp r).rsp = r := rfl
@[simp] theorem State.withRsp_link (r : Responder) : (s.withRsp r).link = s.link := rfl
@[simp] theorem State.withRsp_mem (r : Responder) : (s.withRsp r).mem = s.mem := rfl
@[simp] theorem State.withRsp_inp (r : Responder) : (s.withRsp r).inp = s.inp := rfl
@[simp] theorem State.withRsp_host (r : Responder) : (s.withRsp r).host = s.host := rfl
@[simp] theorem State.withRsp_sched (r : Responder) : (s.withRsp r).sched = s.sched := rfl
@[simp] theorem State.withRsp_out (r : Responder) : (s.withRsp r).out = s.out := rfl

@[simp] theorem State.withLink_cfg (l : Link) : (s.withLink l).cfg = s.cfg := rfl
@[simp] theorem State.withLink_video (l : Link) : (s.withLink l).video = s.video := rfl
@[simp] theorem State.withLink_keys (l : Link) : (s.withLink l).keys = s.keys := rfl
@[simp] theorem State.withLink_ini (l : Link) : (s.withLink l).ini = s.ini := rfl
@[simp] theorem State.withLink_rsp (l : Link) : (s.withLink l).rsp = s.rsp := rfl
@[simp] theorem State.withLink_link (l : Link) : (s.withLink l).link = l := rfl
@[simp] theorem State.withLink_mem (l : Link) : (s.withLink l).mem = s.mem := rfl
@[simp] theorem State.withLink_inp (l : Link) : (s.withLink l).inp = s.inp := rfl
@[simp] theorem State.withLink_host (l : Link) : (s.withLink l).host = s.host := rfl
@[simp] theorem State.withLink_sched (l : Link) : (s.withLink l).sched = s.sched := rfl
@[simp] theorem State.withLink_out (l : Link) : (s.withLink l).out = s.out := rfl

@[simp] theorem State.withMem_cfg (m : Memory) : (s.withMem m).cfg = s.cfg := rfl
@[simp] theorem State.withMem_video (m : Memory) : (s.withMem m).video = s.video := rfl
@[simp] theorem State.withMem_keys (m : Memory) : (s.withMem m).keys = s.keys := rfl
@[simp] theorem State.withMem_ini (m : Memory) : (s.withMem m).ini = s.ini := rfl
@[simp] theorem State.withMem_rsp (m : Memory) : (s.withMem m).rsp = s.rsp := rfl
@[simp] theorem State.withMem_link (m : Memory) : (s.withMem m).link = s.link := rfl
@[simp] theorem State.withMem_mem (m : Memory) : (s.withMem m).mem = m := rfl
@[simp] theorem State.withMem_inp (m : Memory) : (s.withMem m).inp = s.inp := rfl
@[simp] theorem State.withMem_host (m : Memory) : (s.withMem m).host = s.host := rfl
@[simp] theorem State.withMem_sched (m : Memory) : (s.withMem m).sched = s.sched := rfl
@[simp] theorem State.withMem_out (m : Memory) : (s.withMem m).out = s.out := rfl

@[simp] theorem State.withInp_cfg (n : Inputs) : (s.withInp n).cfg = s.cfg := rfl
@[simp] theorem State.withInp_video (n : Inputs) : (s.withInp n).video = s.video := rfl
@[simp] theorem State.withInp_keys (n : Inputs) : (s.withInp n).keys = s.keys := rfl
@[simp] theorem State.withInp_ini (n : Inputs) : (s.withInp n).ini = s.ini := rfl
@[simp] theorem State.withInp_rsp (n : Inputs) : (s.withInp n).rsp = s.rsp := rfl
@[simp] theorem State.withInp_link (n : Inputs) : (s.withInp n).link = s.link := rfl
@[simp] theorem State.withInp_mem (n : Inputs) : (s.withInp n).mem = s.mem := rfl
@[simp] theorem State.withInp_inp (n : Inputs) : (s.withInp n).inp = n := rfl
@[simp] theorem State.withInp_host (n : Inputs) : (s.withInp n).host = s.host := rfl
@[simp] theorem State.withInp_sched (n : Inputs) : (s.withInp n).sched = s.sched := rfl
@[simp] theorem State.withInp_out (n : Inputs) : (s.withInp n).out = s.out := rfl

@[simp] theorem State.withHost_cfg (h : HostSide) : (s.withHost h).cfg = s.cfg := rfl
@[simp] theorem State.withHost_video (h : HostSide) : (s.withHost h).video = s.video := rfl
@[simp] theorem State.withHost_keys (h : HostSide) : (s.withHost h).keys = s.keys := rfl
@[simp] theorem State.withHost_ini (h : HostSide) : (s.withHost h).ini = s.ini := rfl
@[simp] theorem State.withHost_rsp (h : HostSide) : (s.withHost h).rsp = s.rsp := rfl
@[simp] theorem State.withHost_link (h : HostSide) : (s.withHost h).link = s.link := rfl
@[simp] theorem State.withHost_mem (h : HostSide) : (s.withHost h).mem = s.mem := rfl
@[simp] theorem State.withHost_inp (h : HostSide) : (s.withHost h).inp = s.inp := rfl
@[simp] theorem State.withHost_host (h : HostSide) : (s.withHost h).host = h := rfl
@[simp] theorem State.withHost_sched (h : HostSide) : (s.withHost h).sched = s.sched := rfl
@[simp] theorem State.withHost_out (h : HostSide) : (s.withHost h).out = s.out := rfl

@[simp] theorem State.withSched_cfg (c : Schedule) : (s.withSched c).cfg = s.cfg := rfl
@[simp] theorem State.withSched_video (c : Schedule) : (s.withSched c).video = s.video := rfl
@[simp] theorem State.withSched_keys (c : Schedule) : (s.withSched c).keys = s.keys := rfl
@[simp] theorem State.withSched_ini (c : Schedule) : (s.withSched c).ini = s.ini := rfl
@[simp] theorem State.withSched_rsp (c : Schedule) : (s.withSched c).rsp = s.rsp := rfl
@[simp] theorem State.withSched_link (c : Schedule) : (s.withSched c).link = s.link := rfl
@[simp] theorem State.withSched_mem (c : Schedule) : (s.withSched c).mem = s.mem := rfl
@[simp] theorem State.withSched_inp (c : Schedule) : (s.withSched c).inp = s.inp := rfl
@[simp] theorem State.withSched_host (c : Schedule) : (s.withSched c).host = s.host := rfl
@[simp] theorem State.withSched_sched (c : Schedule) : (s.withSched c).sched = c := rfl
@[simp] theorem State.withSched_out (c : Schedule) : (s.withSched c).out = s.out := rfl

@[simp] theorem State.withOut_cfg (o : List TraceEvent) : (s.withOut o).cfg = s.cfg := rfl
@[simp] theorem State.withOut_video (o : List TraceEvent) : (s.withOut o).video = s.video := rfl
@[simp] theorem State.withOut_keys (o : List TraceEvent) : (s.withOut o).keys = s.keys := rfl
@[simp] theorem State.withOut_ini (o : List TraceEvent) : (s.withOut o).ini = s.ini := rfl
@[simp] theorem State.withOut_rsp (o : List TraceEvent) : (s.withOut o).rsp = s.rsp := rfl
@[simp] theorem State.withOut_link (o : List TraceEvent) : (s.withOut o).link = s.link := rfl
@[simp] theorem State.withOut_mem (o : List TraceEvent) : (s.withOut o).mem = s.mem := rfl
@[simp] theorem State.withOut_inp (o : List TraceEvent) : (s.withOut o).inp = s.inp := rfl
@[simp] theorem State.withOut_host (o : List TraceEvent) : (s.withOut o).host = s.host := rfl
@[simp] theorem State.withOut_sched (o : List TraceEvent) : (s.withOut o).sched = s.sched := rfl
@[simp] theorem State.withOut_out (o : List TraceEvent) : (s.withOut o).out = o := rfl

@[simp] theorem State.withVideo_withVideo (v v' : Video) : (s.withVideo v).withVideo v' = s.withVideo v' := rfl
@[simp] theorem State.withKeys_withKeys (k k' : Keys) : (s.withKeys k).withKeys k' = s.withKeys k' := rfl
@[simp] theorem State.withIni_withIni (p p' : Initiator) : (s.withIni p).withIni p' = s.withIni p' := rfl
@[simp] theorem State.withRsp_withRsp (r r' : Responder) : (s.withRsp r).withRsp r' = s.withRsp r' := rfl
@[simp] theorem State.withLink_withLink (l l' : Link) : (s.withLink l).withLink l' = s.withLink l' := rfl
@[simp] theorem State.withMem_withMem (m m' : Memory) : (s.withMem m).withMem m' = s.withMem m' := rfl
@[simp] theorem State.withInp_withInp (n n' : Inputs) : (s.withInp n).withInp n' = s.withInp n' := rfl
@[simp] theorem State.withHost_withHost (h h' : HostSide) : (s.withHost h).withHost h' = s.withHost h' := rfl
@[simp] theorem State.withSched_withSched (c c' : Schedule) : (s.withSched c).withSched c' = s.withSched c' := rfl
@[simp] theorem State.withOut_withOut (o o' : List TraceEvent) : (s.withOut o).withOut o' = s.withOut o' := rfl

@[simp] theorem State.withVideo_self : s.withVideo s.video = s := rfl
@[simp] theorem State.withKeys_self : s.withKeys s.keys = s := rfl
@[simp] theorem State.withIni_self : s.withIni s.ini = s := rfl
@[simp] theorem State.withRsp_self : s.withRsp s.rsp = s := rfl
@[simp] theorem State.withLink_self : s.withLink s.link = s := rfl
@[simp] theorem State.withMem_self : s.withMem s.mem = s := rfl
@[simp] theorem State.withInp_self : s.withInp s.inp = s := rfl
@[simp] theorem State.withHost_self : s.withHost s.host = s := rfl
@[simp] theorem State.withSched_self : s.withSched s.sched = s := rfl
@[simp] theorem State.withOut_self : s.withOut s.out = s := rfl

end

end Sys2Proof.Machine
end

