-- ==== Sys2Proof/Laws/Memory.lean ====
section
/-! SUPPORT. The laws of the memory operations: a read after a write, what a write leaves alone, and the canonical form. -/

namespace Sys2Proof.Machine

open Sys2Proof

theorem cellGet_put_same (m : List Host.Cell) (a : Nat) (v : Byte) : cellGet (cellPut m a v) a = some v := by
  induction m with
  | nil => simp [cellPut, cellGet]
  | cons c t ih =>
    unfold cellPut
    split
    · simp [cellGet]
    · split
      · simp [cellGet]
      · rename_i h1 h2
        have h3 : ¬ c.1 = a := fun h => h2 h.symm
        simp [cellGet, h3, ih]

theorem cellGet_put_other (m : List Host.Cell) {a b : Nat} (v : Byte) (h : b ≠ a) :
    cellGet (cellPut m a v) b = cellGet m b := by
  have h' : ¬ a = b := fun e => h e.symm
  induction m with
  | nil => simp [cellPut, cellGet, h']
  | cons c t ih =>
    unfold cellPut
    split
    · simp [cellGet, h']
    · split
      · rename_i _ h2
        have h3 : ¬ c.1 = b := fun e => h (by omega)
        simp [cellGet, h', h3]
      · simp [cellGet, ih]

/-- A bound below every offset survives a write above it. -/
theorem cellPut_above (m : List Host.Cell) {b a : Nat} (v : Byte) (hb : b < a)
    (h : m.all (fun d => decide (b < d.1)) = true) : (cellPut m a v).all (fun d => decide (b < d.1)) = true := by
  induction m with
  | nil => simpa [cellPut] using hb
  | cons c t ih =>
    have h1 : b < c.1 := by simpa using (List.all_eq_true.mp h c (by simp))
    have h2 : t.all (fun d => decide (b < d.1)) = true := by
      rw [List.all_cons, Bool.and_eq_true] at h; exact h.2
    unfold cellPut
    split
    · rw [List.all_cons, Bool.and_eq_true]; exact ⟨by simpa using hb, h⟩
    · split
      · rw [List.all_cons, Bool.and_eq_true]; exact ⟨by simpa using hb, h2⟩
      · rw [List.all_cons, Bool.and_eq_true]; exact ⟨by simpa using h1, ih h2⟩

theorem cellsRise_put (m : List Host.Cell) (a : Nat) (v : Byte) (h : cellsRise m = true) :
    cellsRise (cellPut m a v) = true := by
  induction m with
  | nil => simp [cellPut, cellsRise]
  | cons c t ih =>
    have hc : t.all (fun d => decide (c.1 < d.1)) = true ∧ cellsRise t = true := by
      simpa only [cellsRise, Bool.and_eq_true] using h
    unfold cellPut
    split
    · rename_i hlt
      simp only [cellsRise, Bool.and_eq_true]
      refine ⟨?_, hc⟩
      rw [List.all_cons, Bool.and_eq_true]
      refine ⟨by simpa using hlt, ?_⟩
      rw [List.all_eq_true]
      intro d hd
      have := List.all_eq_true.mp hc.1 d hd
      simp only [decide_eq_true_eq] at this ⊢
      omega
    · split
      · rename_i _ heq
        simp only [cellsRise, Bool.and_eq_true]
        exact ⟨by rw [heq]; exact hc.1, hc.2⟩
      · rename_i h1 h2
        simp only [cellsRise, Bool.and_eq_true]
        exact ⟨cellPut_above t v (by omega) hc.1, ih hc.2⟩

theorem Memory.wf_iff (m : Memory) :
    m.wf = true ↔ cellsRise m.fbMem = true ∧ cellsRise m.atMem = true ∧ cellsRise m.qbMem = true ∧
      cellsRise m.rmMem = true := by
  simp [Memory.wf, and_assoc]

/-- A write changes the memory and nothing else. -/
@[simp] theorem memWrite_frame (s : State) (sp : Space) (a : Nat) (v : Byte) :
    (memWrite s sp a v).cfg = s.cfg ∧ (memWrite s sp a v).video = s.video ∧ (memWrite s sp a v).keys = s.keys ∧
    (memWrite s sp a v).ini = s.ini ∧ (memWrite s sp a v).rsp = s.rsp ∧ (memWrite s sp a v).link = s.link ∧
    (memWrite s sp a v).inp = s.inp ∧ (memWrite s sp a v).host = s.host ∧ (memWrite s sp a v).sched = s.sched ∧
    (memWrite s sp a v).out = s.out := by
  cases sp <;> simp [memWrite]

theorem memWrite_wf (s : State) (sp : Space) (a : Nat) (v : Byte) (h : s.mem.wf = true) :
    (memWrite s sp a v).mem.wf = true := by
  rw [Memory.wf_iff] at h ⊢
  obtain ⟨h1, h2, h3, h4⟩ := h
  cases sp
  · exact ⟨cellsRise_put _ _ _ h1, h2, h3, h4⟩
  · exact ⟨h1, cellsRise_put _ _ _ h2, h3, h4⟩
  · exact ⟨h1, h2, cellsRise_put _ _ _ h3, h4⟩
  · exact ⟨h1, h2, h3, cellsRise_put _ _ _ h4⟩
  · exact ⟨h1, h2, h3, h4⟩

theorem memRead_memWrite_same (s : State) (sp : Space) (a : Nat) (v : Byte) (h : sp ≠ .fn) :
    memRead (memWrite s sp a v) sp a = some v := by
  cases sp <;> first | exact absurd rfl h | exact cellGet_put_same _ _ _

theorem memRead_memWrite_other (s : State) (sp sp' : Space) {a b : Nat} (v : Byte) (h : sp' ≠ sp ∨ b ≠ a) :
    memRead (memWrite s sp a v) sp' b = memRead s sp' b := by
  cases sp <;> cases sp' <;>
    first
    | rfl
    | exact cellGet_put_other _ v (h.resolve_left (fun e => e rfl))

@[simp] theorem memWriteFrom_frame (sp : Space) (a : Nat) (vs : List Byte) (s : State) :
    (memWriteFrom sp a vs s).cfg = s.cfg ∧ (memWriteFrom sp a vs s).video = s.video ∧
    (memWriteFrom sp a vs s).keys = s.keys ∧ (memWriteFrom sp a vs s).ini = s.ini ∧
    (memWriteFrom sp a vs s).rsp = s.rsp ∧ (memWriteFrom sp a vs s).link = s.link ∧
    (memWriteFrom sp a vs s).inp = s.inp ∧ (memWriteFrom sp a vs s).host = s.host ∧
    (memWriteFrom sp a vs s).sched = s.sched ∧ (memWriteFrom sp a vs s).out = s.out := by
  induction vs generalizing a s with
  | nil => simp [memWriteFrom]
  | cons v vs ih => simpa [memWriteFrom] using ih (a + 1) (memWrite s sp a v)

theorem memWriteFrom_wf (sp : Space) (a : Nat) (vs : List Byte) (s : State) (h : s.mem.wf = true) :
    (memWriteFrom sp a vs s).mem.wf = true := by
  induction vs generalizing a s with
  | nil => exact h
  | cons v vs ih => exact ih (a + 1) _ (memWrite_wf s sp a v h)

/-- A read after writing a run of bytes: the byte of the run where it reaches, what was there elsewhere. -/
theorem memRead_memWriteFrom (sp : Space) (a : Nat) (vs : List Byte) (s : State) (h : sp ≠ .fn) (b : Nat) :
    memRead (memWriteFrom sp a vs s) sp b =
      if a ≤ b then (match vs[b - a]? with | some v => some v | none => memRead s sp b) else memRead s sp b := by
  induction vs generalizing a s with
  | nil => simp [memWriteFrom]
  | cons v vs ih =>
    simp only [memWriteFrom]
    rw [ih]
    by_cases hab : a ≤ b
    · by_cases e : a = b
      · subst e; simp [memRead_memWrite_same _ _ _ _ h]
      · obtain ⟨k, rfl⟩ := Nat.exists_eq_add_of_le (show a + 1 ≤ b by omega)
        have e2 : a + 1 + k - a = k + 1 := by omega
        have e3 : a + 1 + k - (a + 1) = k := by omega
        simp only [e2, e3, List.getElem?_cons_succ, hab, if_true, show a + 1 ≤ a + 1 + k by omega]
        rw [memRead_memWrite_other _ _ _ _ (Or.inr (by omega))]
    · simp only [hab, if_false, show ¬ a + 1 ≤ b by omega]
      rw [memRead_memWrite_other _ _ _ _ (Or.inr (by omega))]

/-- A run of bytes leaves the other spaces alone. -/
theorem memRead_memWriteFrom_other (sp sp' : Space) (a : Nat) (vs : List Byte) (s : State) (h : sp' ≠ sp) (b : Nat) :
    memRead (memWriteFrom sp a vs s) sp' b = memRead s sp' b := by
  induction vs generalizing a s with
  | nil => rfl
  | cons v vs ih => simp only [memWriteFrom]; rw [ih, memRead_memWrite_other _ _ _ _ (Or.inl h)]

/-- A read sees the memory and, for FN, the profile in force. -/
theorem memRead_congr {s t : State} (sp : Space) (a : Nat) (h : t.mem = s.mem)
    (hf : sp = .fn → t.profile = s.profile) : memRead t sp a = memRead s sp a := by
  cases sp <;> simp_all [memRead]

theorem reset_mem_wf : State.reset.mem.wf = true := rfl

/-- A read that never fails changes nothing but the count of drawn bytes. -/
@[simp] theorem memFetch_frame (s : State) (sp : Space) (a : Nat) :
    (memFetch s sp a).2.cfg = s.cfg ∧ (memFetch s sp a).2.video = s.video ∧ (memFetch s sp a).2.keys = s.keys ∧
    (memFetch s sp a).2.ini = s.ini ∧ (memFetch s sp a).2.rsp = s.rsp ∧ (memFetch s sp a).2.link = s.link ∧
    (memFetch s sp a).2.mem = s.mem ∧ (memFetch s sp a).2.inp = s.inp ∧ (memFetch s sp a).2.host = s.host ∧
    (memFetch s sp a).2.out = s.out := by
  unfold memFetch drawByte; split <;> simp

/-- Everything `memFetch` can do. -/
theorem memFetch_cases (s : State) (sp : Space) (a : Nat) :
    (∃ v, memRead s sp a = some v ∧ memFetch s sp a = (v, s)) ∨
    (memRead s sp a = none ∧ memFetch s sp a = drawByte s) := by
  unfold memFetch; split
  · next v h => exact .inl ⟨v, h, rfl⟩
  · next h => exact .inr ⟨h, rfl⟩

end Sys2Proof.Machine
end

