-- ==== Sys2Proof/Laws/Ops.lean ====
section
/-! SUPPORT. One lemma per shared operation that says what it leaves unchanged (its frame) and, where it branches, every case of
what it does. Later proofs cite these and unfold no shared operation. -/

namespace Sys2Proof.Machine

open Sys2Proof


/-! ### Guards: when they let an answer through -/

theorem hostStep_next {s t : State} {k : Answer} (h : hostStep s k = .next t) :
    hasDisplay s = true ∧ s.host.wv = .none ∧ k = .next t := by
  unfold hostStep at h
  split at h
  · cases h
  · split at h
    · cases h
    · rename_i h1 h2
      exact ⟨by simpa using h1, by simpa using h2, h⟩

theorem hostStep_ok {s : State} (h1 : hasDisplay s = true) (h2 : s.host.wv = .none) (k : Answer) : hostStep s k = k := by
  simp [hostStep, h1, h2]

theorem needDisplay_next {s t : State} {k : Answer} (h : needDisplay s k = .next t) :
    s.host.dispReady = true ∧ k = .next t := by
  unfold needDisplay at h
  split at h
  · rename_i h1; exact ⟨h1, h⟩
  · cases h

theorem needKeys_next {s t : State} {k : Answer} (h : needKeys s k = .next t) :
    s.host.keyReady = true ∧ k = .next t := by
  unfold needKeys at h
  split at h
  · rename_i h1; exact ⟨h1, h⟩
  · cases h

theorem linkStep_next {s t : State} {k : Answer} (h : linkStep s k = .next t) : hasLink s = true ∧ k = .next t := by
  unfold linkStep at h
  split at h
  · rename_i h1; exact ⟨h1, h⟩
  · cases h

theorem displayStep_next {s t : State} {k : Answer} (h : displayStep s k = .next t) :
    hasDisplay s = true ∧ s.video.dispEn = true ∧ k = .next t := by
  unfold displayStep at h
  split at h
  · cases h
  · split at h
    · cases h
    · rename_i h1 h2
      exact ⟨by simpa using h1, by simpa using h2, h⟩

/-! ### Trace, link, queue -/

@[simp] theorem emit_frame (s : State) (e : TraceEvent) :
    (emit s e).cfg = s.cfg ∧ (emit s e).video = s.video ∧ (emit s e).keys = s.keys ∧
    (emit s e).ini = s.ini ∧ (emit s e).rsp = s.rsp ∧ (emit s e).link = s.link ∧
    (emit s e).mem = s.mem ∧ (emit s e).inp = s.inp ∧ (emit s e).host = s.host ∧
    (emit s e).sched = s.sched := by
  simp [emit]

@[simp] theorem sendD2I_frame (s : State) (b : Byte) :
    (sendD2I s b).cfg = s.cfg ∧ (sendD2I s b).video = s.video ∧ (sendD2I s b).keys = s.keys ∧
    (sendD2I s b).ini = s.ini ∧ (sendD2I s b).rsp = s.rsp ∧ (sendD2I s b).mem = s.mem ∧
    (sendD2I s b).inp = s.inp ∧ (sendD2I s b).host = s.host ∧ (sendD2I s b).sched = s.sched ∧
    (sendD2I s b).out = s.out := by
  simp [sendD2I]

@[simp] theorem sendI2D_frame (s : State) (b : Byte) :
    (sendI2D s b).cfg = s.cfg ∧ (sendI2D s b).video = s.video ∧ (sendI2D s b).keys = s.keys ∧
    (sendI2D s b).ini = s.ini ∧ (sendI2D s b).rsp = s.rsp ∧ (sendI2D s b).mem = s.mem ∧
    (sendI2D s b).inp = s.inp ∧ (sendI2D s b).host = s.host ∧ (sendI2D s b).sched = s.sched ∧
    (sendI2D s b).out = s.out := by
  simp [sendI2D]

@[simp] theorem emit_out (s : State) (e : TraceEvent) : (emit s e).out = s.out ++ [e] := rfl

@[simp] theorem sendD2I_link (s : State) (b : Byte) : (sendD2I s b).link = { s.link with d2i := s.link.d2i ++ [b] } := rfl

@[simp] theorem sendI2D_link (s : State) (b : Byte) : (sendI2D s b).link = { s.link with i2d := s.link.i2d ++ [b] } := rfl

@[simp] theorem rxTake_frame (s : State) :
    ((rxTake s).2).cfg = s.cfg ∧ ((rxTake s).2).video = s.video ∧ ((rxTake s).2).keys = s.keys ∧
    ((rxTake s).2).rsp = s.rsp ∧ ((rxTake s).2).link = s.link ∧ ((rxTake s).2).mem = s.mem ∧
    ((rxTake s).2).inp = s.inp ∧ ((rxTake s).2).host = s.host ∧ ((rxTake s).2).sched = s.sched ∧
    ((rxTake s).2).out = s.out := by
  unfold rxTake; split <;> simp

/-- Everything `rxTake` can do. -/
theorem rxTake_cases (s : State) :
    (s.ini.rxqD = [] ∧ rxTake s = (none, s)) ∨
    (∃ b t, s.ini.rxqD = b :: t ∧ rxTake s = (some b, s.withIni { s.ini with rxqD := t })) := by
  unfold rxTake; split
  · next h => exact .inl ⟨h, rfl⟩
  · next b t h => exact .inr ⟨b, t, h, rfl⟩

@[simp] theorem setSession_frame (s : State) (c : LastCmd) (got row : Nat) :
    (setSession s c got row).cfg = s.cfg ∧ (setSession s c got row).video = s.video ∧ (setSession s c got row).keys = s.keys ∧
    (setSession s c got row).rsp = s.rsp ∧ (setSession s c got row).link = s.link ∧ (setSession s c got row).mem = s.mem ∧
    (setSession s c got row).inp = s.inp ∧ (setSession s c got row).host = s.host ∧ (setSession s c got row).sched = s.sched ∧
    (setSession s c got row).out = s.out := by
  simp [setSession]

@[simp] theorem setSession_ini (s : State) (c : LastCmd) (got row : Nat) :
    (setSession s c got row).ini = { s.ini with sess := { lastcmd := c, got := got, row := row } } := rfl

@[simp] theorem setRowsel_frame (s : State) (v : Bool) :
    (setRowsel s v).cfg = s.cfg ∧ (setRowsel s v).video = s.video ∧ (setRowsel s v).keys = s.keys ∧
    (setRowsel s v).ini = s.ini ∧ (setRowsel s v).link = s.link ∧ (setRowsel s v).mem = s.mem ∧
    (setRowsel s v).inp = s.inp ∧ (setRowsel s v).host = s.host ∧ (setRowsel s v).sched = s.sched := by
  simp [setRowsel]

@[simp] theorem setRowsel_rsp (s : State) (v : Bool) : (setRowsel s v).rsp = { s.rsp with rowsel := v } := rfl

@[simp] theorem setRowsel_out (s : State) (v : Bool) : (setRowsel s v).out = s.out ++ [.rowsel v] := rfl

@[simp] theorem qPush_frame (s : State) (c : Byte) :
    (qPush s c).cfg = s.cfg ∧ (qPush s c).video = s.video ∧ (qPush s c).ini = s.ini ∧
    (qPush s c).rsp = s.rsp ∧ (qPush s c).link = s.link ∧ (qPush s c).inp = s.inp ∧
    (qPush s c).host = s.host ∧ (qPush s c).sched = s.sched ∧ (qPush s c).out = s.out := by
  unfold qPush; split <;> simp

/-- Everything `qPush` can do: drop the event, or store it at the write offset and publish it. -/
theorem qPush_cases (s : State) (c : Byte) :
    (queueFull s = true ∧ qPush s c = s) ∨
    (queueFull s = false ∧
      qPush s c = (memWrite s .qb s.keys.qWr c).withKeys { s.keys with qWr := ringNext s.cfg s.keys.qWr }) := by
  unfold qPush; split
  · next h => exact .inl ⟨h, rfl⟩
  · next h => exact .inr ⟨by simpa using h, by simp⟩

theorem qPush_mem_wf (s : State) (c : Byte) (h : s.mem.wf = true) : (qPush s c).mem.wf = true := by
  rcases qPush_cases s c with ⟨-, e⟩ | ⟨-, e⟩ <;> rw [e]
  · exact h
  · exact memWrite_wf _ _ _ _ h

/-- The producer leaves the consumer's offset alone. -/
@[simp] theorem qPush_keys (s : State) (c : Byte) :
    (qPush s c).keys.qRd = s.keys.qRd ∧ (qPush s c).keys.ks = s.keys.ks ∧ (qPush s c).keys.keyEn = s.keys.keyEn := by
  rcases qPush_cases s c with ⟨-, e⟩ | ⟨-, e⟩ <;> rw [e] <;> simp

/-- Everything `qPop` can do. -/
theorem qPop_cases (s : State) :
    (queueEmpty s = true ∧ qPop s = .code noKeyCode s) ∨
    (∃ c, queueEmpty s = false ∧ memRead s .qb s.keys.qRd = some c ∧
      qPop s = .code c (s.withKeys { s.keys with qRd := ringNext s.cfg s.keys.qRd })) ∨
    (queueEmpty s = false ∧ memRead s .qb s.keys.qRd = none ∧ qPop s = .unwritten s.keys.qRd) := by
  unfold qPop; split
  · next h => exact .inl ⟨h, rfl⟩
  · next h =>
    split
    · next c hc => exact .inr (.inl ⟨c, by simpa using h, hc, rfl⟩)
    · next hc => exact .inr (.inr ⟨by simpa using h, hc, rfl⟩)

/-! ### Interrupts and the host's side -/

@[simp] theorem raiseScanline_frame (s : State) :
    (raiseScanline s).cfg = s.cfg ∧ (raiseScanline s).keys = s.keys ∧ (raiseScanline s).ini = s.ini ∧
    (raiseScanline s).rsp = s.rsp ∧ (raiseScanline s).link = s.link ∧ (raiseScanline s).mem = s.mem ∧
    (raiseScanline s).inp = s.inp ∧ (raiseScanline s).host = s.host ∧ (raiseScanline s).sched = s.sched ∧
    (raiseScanline s).out = s.out := by
  simp [raiseScanline]

@[simp] theorem enterScanline_frame (s : State) :
    (enterScanline s).cfg = s.cfg ∧ (enterScanline s).keys = s.keys ∧ (enterScanline s).ini = s.ini ∧
    (enterScanline s).rsp = s.rsp ∧ (enterScanline s).link = s.link ∧ (enterScanline s).mem = s.mem ∧
    (enterScanline s).inp = s.inp ∧ (enterScanline s).host = s.host ∧ (enterScanline s).sched = s.sched ∧
    (enterScanline s).out = s.out := by
  simp [enterScanline]

@[simp] theorem enterScanline_raise (s : State) :
    enterScanline (raiseScanline s) = s.withVideo { s.video with tickPend := false } := rfl

@[simp] theorem enterHandler_eq (s : State) : enterHandler s = s := rfl

@[simp] theorem leaveHandler_eq (s : State) : leaveHandler s = s := rfl

@[simp] theorem giveResult_frame (s : State) (r : HostResult) :
    (giveResult s r).cfg = s.cfg ∧ (giveResult s r).video = s.video ∧ (giveResult s r).keys = s.keys ∧
    (giveResult s r).ini = s.ini ∧ (giveResult s r).rsp = s.rsp ∧ (giveResult s r).link = s.link ∧
    (giveResult s r).mem = s.mem ∧ (giveResult s r).inp = s.inp ∧ (giveResult s r).sched = s.sched ∧
    (giveResult s r).out = s.out := by
  simp [giveResult]

@[simp] theorem giveResult_host (s : State) (r : HostResult) : (giveResult s r).host = { s.host with res := r } := rfl

@[simp] theorem pollWait_frame (s : State) :
    (pollWait s).cfg = s.cfg ∧ (pollWait s).video = s.video ∧ (pollWait s).keys = s.keys ∧
    (pollWait s).ini = s.ini ∧ (pollWait s).rsp = s.rsp ∧ (pollWait s).link = s.link ∧
    (pollWait s).mem = s.mem ∧ (pollWait s).inp = s.inp ∧ (pollWait s).sched = s.sched ∧
    (pollWait s).out = s.out := by
  unfold pollWait; split <;> (try split) <;> simp

/-- A poll moves WV and nothing else of the host's side. -/
theorem pollWait_host (s : State) :
    (pollWait s).host =
      { s.host with
        wv :=
          match s.host.wv with
          | .none => .none
          | .phaseA => if isVBlank s then .phaseA else .phaseB
          | .phaseB => if isVBlank s then .none else .phaseB } := by
  unfold pollWait
  rcases h : s.host with ⟨wv, res, d, k⟩
  cases wv <;> simp [h] <;> split <;> simp [h]

/-! ### Debouncer -/

@[simp] theorem setKeyState_frame (s : State) (i : Nat) (k : KeyState) :
    (setKeyState s i k).cfg = s.cfg ∧ (setKeyState s i k).video = s.video ∧ (setKeyState s i k).ini = s.ini ∧
    (setKeyState s i k).rsp = s.rsp ∧ (setKeyState s i k).link = s.link ∧ (setKeyState s i k).mem = s.mem ∧
    (setKeyState s i k).inp = s.inp ∧ (setKeyState s i k).host = s.host ∧ (setKeyState s i k).sched = s.sched ∧
    (setKeyState s i k).out = s.out := by
  simp [setKeyState]

@[simp] theorem setKeyState_keys (s : State) (i : Nat) (k : KeyState) :
    (setKeyState s i k).keys = { s.keys with ks := s.keys.ks.set i k } := rfl

@[simp] theorem debounceKey_frame (i : Nat) (a : Bool) (s : State) :
    (debounceKey i a s).cfg = s.cfg ∧ (debounceKey i a s).video = s.video ∧ (debounceKey i a s).ini = s.ini ∧
    (debounceKey i a s).rsp = s.rsp ∧ (debounceKey i a s).link = s.link ∧ (debounceKey i a s).inp = s.inp ∧
    (debounceKey i a s).host = s.host ∧ (debounceKey i a s).sched = s.sched ∧ (debounceKey i a s).out = s.out := by
  unfold debounceKey debounceOn debounceOff; dsimp only; (repeat' split) <;> simp

/-- The scan step leaves the consumer's offset, the enable and the number of entries alone. -/
@[simp] theorem debounceKey_keys (i : Nat) (a : Bool) (s : State) :
    (debounceKey i a s).keys.qRd = s.keys.qRd ∧ (debounceKey i a s).keys.keyEn = s.keys.keyEn ∧
    (debounceKey i a s).keys.ks.length = s.keys.ks.length := by
  unfold debounceKey debounceOn debounceOff; dsimp only; (repeat' split) <;> simp

theorem debounceKey_mem_wf (i : Nat) (a : Bool) (s : State) (h : s.mem.wf = true) :
    (debounceKey i a s).mem.wf = true := by
  unfold debounceKey debounceOn debounceOff; dsimp only
  (repeat' split) <;> first | exact h | exact qPush_mem_wf _ _ (by simpa using h)

@[simp] theorem debounceFrom_frame (i : Nat) (l : List Bool) (s : State) :
    (debounceFrom i l s).cfg = s.cfg ∧ (debounceFrom i l s).video = s.video ∧ (debounceFrom i l s).ini = s.ini ∧
    (debounceFrom i l s).rsp = s.rsp ∧ (debounceFrom i l s).link = s.link ∧ (debounceFrom i l s).inp = s.inp ∧
    (debounceFrom i l s).host = s.host ∧ (debounceFrom i l s).sched = s.sched ∧ (debounceFrom i l s).out = s.out := by
  induction l generalizing i s with
  | nil => simp [debounceFrom]
  | cons a l ih => simpa [debounceFrom] using ih (i + 1) (debounceKey i a s)

@[simp] theorem debounceFrom_keys (i : Nat) (l : List Bool) (s : State) :
    (debounceFrom i l s).keys.qRd = s.keys.qRd ∧ (debounceFrom i l s).keys.keyEn = s.keys.keyEn ∧
    (debounceFrom i l s).keys.ks.length = s.keys.ks.length := by
  induction l generalizing i s with
  | nil => simp [debounceFrom]
  | cons a l ih => simpa [debounceFrom] using ih (i + 1) (debounceKey i a s)

theorem debounceFrom_mem_wf (i : Nat) (l : List Bool) (s : State) (h : s.mem.wf = true) :
    (debounceFrom i l s).mem.wf = true := by
  induction l generalizing i s with
  | nil => exact h
  | cons a l ih => exact ih (i + 1) _ (debounceKey_mem_wf i a s h)

@[simp] theorem scan_frame (s : State) :
    (scan s).cfg = s.cfg ∧ (scan s).video = s.video ∧ (scan s).rsp = s.rsp ∧
    (scan s).link = s.link ∧ (scan s).inp = s.inp ∧ (scan s).host = s.host ∧
    (scan s).sched = s.sched ∧ (scan s).out = s.out := by
  unfold scan; dsimp only; split <;> simp

@[simp] theorem scan_keys (s : State) :
    (scan s).keys.qRd = s.keys.qRd ∧ (scan s).keys.keyEn = s.keys.keyEn ∧
    (scan s).keys.ks.length = s.keys.ks.length := by
  unfold scan; dsimp only; split <;> simp

theorem scan_mem_wf (s : State) (h : s.mem.wf = true) : (scan s).mem.wf = true := by
  have := debounceFrom_mem_wf 0 (rawVector s) s h
  unfold scan; dsimp only; split <;> simpa using this

/-! ### Initiator -/

@[simp] theorem latchAck_frame (b : Byte) (s : State) :
    (latchAck b s).cfg = s.cfg ∧ (latchAck b s).video = s.video ∧ (latchAck b s).keys = s.keys ∧
    (latchAck b s).rsp = s.rsp ∧ (latchAck b s).link = s.link ∧ (latchAck b s).mem = s.mem ∧
    (latchAck b s).inp = s.inp ∧ (latchAck b s).host = s.host ∧ (latchAck b s).sched = s.sched ∧
    (latchAck b s).out = s.out := by
  simp [latchAck]

@[simp] theorem latchFirst_frame (b : Byte) (s : State) :
    (latchFirst b s).cfg = s.cfg ∧ (latchFirst b s).video = s.video ∧ (latchFirst b s).keys = s.keys ∧
    (latchFirst b s).rsp = s.rsp ∧ (latchFirst b s).link = s.link ∧ (latchFirst b s).mem = s.mem ∧
    (latchFirst b s).inp = s.inp ∧ (latchFirst b s).host = s.host ∧ (latchFirst b s).sched = s.sched ∧
    (latchFirst b s).out = s.out := by
  simp [latchFirst]

@[simp] theorem latchSecond_frame (b : Byte) (s : State) :
    (latchSecond b s).cfg = s.cfg ∧ (latchSecond b s).video = s.video ∧ (latchSecond b s).keys = s.keys ∧
    (latchSecond b s).rsp = s.rsp ∧ (latchSecond b s).link = s.link ∧ (latchSecond b s).mem = s.mem ∧
    (latchSecond b s).inp = s.inp ∧ (latchSecond b s).host = s.host ∧ (latchSecond b s).sched = s.sched ∧
    (latchSecond b s).out = s.out := by
  simp [latchSecond]

@[simp] theorem closeSync_frame (t : Option Byte) (s : State) :
    (closeSync t s).cfg = s.cfg ∧ (closeSync t s).video = s.video ∧ (closeSync t s).keys = s.keys ∧
    (closeSync t s).rsp = s.rsp ∧ (closeSync t s).link = s.link ∧ (closeSync t s).mem = s.mem ∧
    (closeSync t s).inp = s.inp ∧ (closeSync t s).host = s.host ∧ (closeSync t s).sched = s.sched ∧
    (closeSync t s).out = s.out := by
  cases t <;> simp [closeSync]

@[simp] theorem decodeRow_frame (r : Nat) (s : State) :
    (decodeRow r s).cfg = s.cfg ∧ (decodeRow r s).video = s.video ∧ (decodeRow r s).keys = s.keys ∧
    (decodeRow r s).rsp = s.rsp ∧ (decodeRow r s).link = s.link ∧ (decodeRow r s).mem = s.mem ∧
    (decodeRow r s).inp = s.inp ∧ (decodeRow r s).host = s.host ∧ (decodeRow r s).out = s.out := by
  simp [decodeRow]

@[simp] theorem closeRow_frame (r : Nat) (t : Option Byte) (s : State) :
    (closeRow r t s).cfg = s.cfg ∧ (closeRow r t s).video = s.video ∧ (closeRow r t s).keys = s.keys ∧
    (closeRow r t s).rsp = s.rsp ∧ (closeRow r t s).link = s.link ∧ (closeRow r t s).mem = s.mem ∧
    (closeRow r t s).inp = s.inp ∧ (closeRow r t s).host = s.host ∧ (closeRow r t s).out = s.out := by
  cases t <;> simp [closeRow]

@[simp] theorem sendRow_frame (r : Nat) (s : State) :
    (sendRow r s).cfg = s.cfg ∧ (sendRow r s).video = s.video ∧ (sendRow r s).keys = s.keys ∧
    (sendRow r s).rsp = s.rsp ∧ (sendRow r s).mem = s.mem ∧ (sendRow r s).inp = s.inp ∧
    (sendRow r s).host = s.host ∧ (sendRow r s).sched = s.sched ∧ (sendRow r s).out = s.out := by
  simp [sendRow]

@[simp] theorem pSyncTx_frame (s : State) :
    (pSyncTx s).cfg = s.cfg ∧ (pSyncTx s).video = s.video ∧ (pSyncTx s).keys = s.keys ∧
    (pSyncTx s).rsp = s.rsp ∧ (pSyncTx s).mem = s.mem ∧ (pSyncTx s).inp = s.inp ∧
    (pSyncTx s).host = s.host ∧ (pSyncTx s).sched = s.sched ∧ (pSyncTx s).out = s.out := by
  simp [pSyncTx]

@[simp] theorem pOdd_frame (r : Nat) (s : State) :
    (pOdd r s).cfg = s.cfg ∧ (pOdd r s).video = s.video ∧ (pOdd r s).keys = s.keys ∧
    (pOdd r s).rsp = s.rsp ∧ (pOdd r s).mem = s.mem ∧ (pOdd r s).inp = s.inp ∧
    (pOdd r s).host = s.host ∧ (pOdd r s).out = s.out := by
  unfold pOdd; dsimp only; (repeat' split) <;> simp

@[simp] theorem pEven_frame (s : State) :
    (pEven s).cfg = s.cfg ∧ (pEven s).video = s.video ∧ (pEven s).keys = s.keys ∧
    (pEven s).rsp = s.rsp ∧ (pEven s).link = s.link ∧ (pEven s).mem = s.mem ∧
    (pEven s).inp = s.inp ∧ (pEven s).host = s.host ∧ (pEven s).sched = s.sched ∧
    (pEven s).out = s.out := by
  unfold pEven; dsimp only; split <;> simp

@[simp] theorem pSlot_frame (n : Nat) (s : State) :
    (pSlot n s).cfg = s.cfg ∧ (pSlot n s).video = s.video ∧ (pSlot n s).rsp = s.rsp ∧
    (pSlot n s).inp = s.inp ∧ (pSlot n s).host = s.host ∧ (pSlot n s).out = s.out := by
  unfold pSlot; split <;> simp

@[simp] theorem backSlot_frame (n : Nat) (s : State) :
    (backSlot n s).cfg = s.cfg ∧ (backSlot n s).video = s.video ∧ (backSlot n s).rsp = s.rsp ∧
    (backSlot n s).inp = s.inp ∧ (backSlot n s).host = s.host ∧ (backSlot n s).out = s.out := by
  unfold backSlot; (repeat' split) <;> simp

@[simp] theorem backSlot_keys (n : Nat) (s : State) :
    (backSlot n s).keys.qRd = s.keys.qRd ∧ (backSlot n s).keys.keyEn = s.keys.keyEn ∧
    (backSlot n s).keys.ks.length = s.keys.ks.length := by
  unfold backSlot pSlot; (repeat' split) <;> simp

theorem backSlot_mem_wf (n : Nat) (s : State) (h : s.mem.wf = true) : (backSlot n s).mem.wf = true := by
  unfold backSlot pSlot; (repeat' split) <;> first | exact scan_mem_wf s h | simpa using h

/-! ### Responder -/

@[simp] theorem rspSync_frame (s : State) :
    (rspSync s).cfg = s.cfg ∧ (rspSync s).video = s.video ∧ (rspSync s).keys = s.keys ∧
    (rspSync s).ini = s.ini ∧ (rspSync s).mem = s.mem ∧ (rspSync s).inp = s.inp ∧
    (rspSync s).host = s.host ∧ (rspSync s).sched = s.sched := by
  simp [rspSync]

@[simp] theorem rspRow_frame (x : Bool) (s : State) :
    (rspRow x s).cfg = s.cfg ∧ (rspRow x s).video = s.video ∧ (rspRow x s).keys = s.keys ∧
    (rspRow x s).ini = s.ini ∧ (rspRow x s).mem = s.mem ∧ (rspRow x s).inp = s.inp ∧
    (rspRow x s).host = s.host ∧ (rspRow x s).sched = s.sched := by
  simp [rspRow]

@[simp] theorem rspByte_frame (c : Byte) (s : State) :
    (rspByte c s).cfg = s.cfg ∧ (rspByte c s).video = s.video ∧ (rspByte c s).keys = s.keys ∧
    (rspByte c s).ini = s.ini ∧ (rspByte c s).mem = s.mem ∧ (rspByte c s).inp = s.inp ∧
    (rspByte c s).host = s.host ∧ (rspByte c s).sched = s.sched := by
  unfold rspByte; (repeat' split) <;> simp

@[simp] theorem rspByte_rxqI (c : Byte) (s : State) : (rspByte c s).rsp.rxqI = s.rsp.rxqI := by
  unfold rspByte; (repeat' split) <;> simp [rspSync, rspRow]

/-- A sampled pin is 1 where the environment drives 1 or the variant has no such pin. -/
theorem columnPins_getLsbD (s : State) (j : Nat) :
    (columnPins s).getLsbD j = (s.inp.colin.getLsbD j || (decide (j < 10) && !s.cfg.colPins.getLsbD j)) := by
  simp [columnPins]

/-! ### Display -/

@[simp] theorem bitPixels_length (b : Byte) : (bitPixels b).length = 8 := rfl

@[simp] theorem serEmit_frame (v : Byte) (a : Option Byte) (p : Pixels) (s : State) :
    (serEmit v a p s).cfg = s.cfg ∧ (serEmit v a p s).keys = s.keys ∧ (serEmit v a p s).ini = s.ini ∧
    (serEmit v a p s).rsp = s.rsp ∧ (serEmit v a p s).link = s.link ∧ (serEmit v a p s).mem = s.mem ∧
    (serEmit v a p s).inp = s.inp ∧ (serEmit v a p s).host = s.host ∧ (serEmit v a p s).sched = s.sched := by
  simp [serEmit]

@[simp] theorem serReadByte_frame (s : State) :
    (serReadByte s).cfg = s.cfg ∧ (serReadByte s).keys = s.keys ∧ (serReadByte s).ini = s.ini ∧
    (serReadByte s).rsp = s.rsp ∧ (serReadByte s).link = s.link ∧ (serReadByte s).mem = s.mem ∧
    (serReadByte s).inp = s.inp ∧ (serReadByte s).host = s.host := by
  unfold serReadByte; split <;> simp [serGfx1, serGfx8, serAttr, serText]

/-- Reading a byte moves SER.idx and SER.busy and nothing else of group V. -/
theorem serReadByte_video (s : State) :
    (serReadByte s).video =
      { s.video with
        ser :=
          { s.video.ser with idx := s.video.ser.idx + 1, busy := busyFlag s.video.ser (s.video.ser.idx + 1) } } := by
  unfold serReadByte; split <;> simp [serGfx1, serGfx8, serAttr, serText, serEmit]

@[simp] theorem serReadRow_frame (n : Nat) (s : State) :
    (serReadRow n s).cfg = s.cfg ∧ (serReadRow n s).keys = s.keys ∧ (serReadRow n s).ini = s.ini ∧
    (serReadRow n s).rsp = s.rsp ∧ (serReadRow n s).link = s.link ∧ (serReadRow n s).mem = s.mem ∧
    (serReadRow n s).inp = s.inp ∧ (serReadRow n s).host = s.host := by
  induction n generalizing s with
  | zero => simp [serReadRow]
  | succ n ih => simpa [serReadRow] using ih (serReadByte s)

@[simp] theorem render_frame (s : State) :
    (render s).cfg = s.cfg ∧ (render s).keys = s.keys ∧ (render s).ini = s.ini ∧
    (render s).rsp = s.rsp ∧ (render s).link = s.link ∧ (render s).mem = s.mem ∧
    (render s).inp = s.inp ∧ (render s).host = s.host := by
  unfold render; dsimp only; (repeat' split) <;> simp

@[simp] theorem lineAction_frame (c : LineClass) (s : State) :
    (lineAction c s).cfg = s.cfg ∧ (lineAction c s).rsp = s.rsp ∧ (lineAction c s).inp = s.inp ∧
    (lineAction c s).host = s.host := by
  unfold lineAction; cases c <;> simp

@[simp] theorem lineAction_keys (c : LineClass) (s : State) :
    (lineAction c s).keys.qRd = s.keys.qRd ∧ (lineAction c s).keys.keyEn = s.keys.keyEn ∧
    (lineAction c s).keys.ks.length = s.keys.ks.length := by
  unfold lineAction; cases c <;> simp

theorem lineAction_mem_wf (c : LineClass) (s : State) (h : s.mem.wf = true) : (lineAction c s).mem.wf = true := by
  unfold lineAction; cases c <;> first | exact backSlot_mem_wf _ _ (by simpa using h) | simpa using h

@[simp] theorem advanceCounters_frame (s : State) :
    (advanceCounters s).cfg = s.cfg ∧ (advanceCounters s).keys = s.keys ∧ (advanceCounters s).ini = s.ini ∧
    (advanceCounters s).rsp = s.rsp ∧ (advanceCounters s).link = s.link ∧ (advanceCounters s).mem = s.mem ∧
    (advanceCounters s).inp = s.inp ∧ (advanceCounters s).host = s.host ∧ (advanceCounters s).sched = s.sched ∧
    (advanceCounters s).out = s.out := by
  unfold advanceCounters; split <;> simp

@[simp] theorem abandonRow_frame (s : State) :
    (abandonRow s).cfg = s.cfg ∧ (abandonRow s).keys = s.keys ∧ (abandonRow s).ini = s.ini ∧
    (abandonRow s).rsp = s.rsp ∧ (abandonRow s).link = s.link ∧ (abandonRow s).mem = s.mem ∧
    (abandonRow s).inp = s.inp ∧ (abandonRow s).host = s.host ∧ (abandonRow s).sched = s.sched ∧
    (abandonRow s).out = s.out := by
  simp [abandonRow]

@[simp] theorem scanlineHandler_frame (s : State) :
    (scanlineHandler s).cfg = s.cfg ∧ (scanlineHandler s).rsp = s.rsp ∧ (scanlineHandler s).inp = s.inp ∧
    (scanlineHandler s).host = s.host := by
  simp [scanlineHandler]

@[simp] theorem scanlineHandler_keys (s : State) :
    (scanlineHandler s).keys.qRd = s.keys.qRd ∧ (scanlineHandler s).keys.keyEn = s.keys.keyEn ∧
    (scanlineHandler s).keys.ks.length = s.keys.ks.length := by
  simp [scanlineHandler]

theorem scanlineHandler_mem_wf (s : State) (h : s.mem.wf = true) : (scanlineHandler s).mem.wf = true :=
  lineAction_mem_wf _ _ (by simpa using h)

/-! ### Host -/

@[simp] theorem dispInit_frame (m : Byte) (s : State) :
    (dispInit m s).cfg = s.cfg ∧ (dispInit m s).keys = s.keys ∧ (dispInit m s).ini = s.ini ∧
    (dispInit m s).rsp = s.rsp ∧ (dispInit m s).link = s.link ∧ (dispInit m s).mem = s.mem ∧
    (dispInit m s).inp = s.inp ∧ (dispInit m s).sched = s.sched ∧ (dispInit m s).out = s.out := by
  simp [dispInit]

@[simp] theorem keyInitKeys_frame (s : State) :
    (keyInitKeys s).cfg = s.cfg ∧ (keyInitKeys s).video = s.video ∧ (keyInitKeys s).ini = s.ini ∧
    (keyInitKeys s).rsp = s.rsp ∧ (keyInitKeys s).link = s.link ∧ (keyInitKeys s).mem = s.mem ∧
    (keyInitKeys s).inp = s.inp ∧ (keyInitKeys s).sched = s.sched ∧ (keyInitKeys s).out = s.out := by
  simp [keyInitKeys]

@[simp] theorem keyInitProtocol_frame (s : State) :
    (keyInitProtocol s).cfg = s.cfg ∧ (keyInitProtocol s).video = s.video ∧ (keyInitProtocol s).keys = s.keys ∧
    (keyInitProtocol s).rsp = s.rsp ∧ (keyInitProtocol s).link = s.link ∧ (keyInitProtocol s).inp = s.inp ∧
    (keyInitProtocol s).host = s.host ∧ (keyInitProtocol s).sched = s.sched ∧ (keyInitProtocol s).out = s.out := by
  simp [keyInitProtocol]

theorem keyInitProtocol_mem_wf (s : State) (h : s.mem.wf = true) : (keyInitProtocol s).mem.wf = true := by
  simpa [keyInitProtocol] using memWriteFrom_wf .rm 0 s.cfg.remap s h

end Sys2Proof.Machine
end

