-- ==== Sys2Proof/Laws/Tick.lean ====
section
/-! SUPPORT. TICK taken apart once: the state its line action starts from, and what the line action does to the display group
and the trace. -/

namespace Sys2Proof.Machine

open Sys2Proof

/-- TICK's steps 1 and 2: the counters advanced, the request taken, the serialiser idle. -/
def lineStart (s : State) : State :=
  s.withVideo
    { (advanceCounters s).video with tickPend := false, ser := { s.video.ser with busy := false } }

/-- Advancing the counters moves SL and FR only. -/
@[simp] theorem advanceCounters_video (s : State) :
    (advanceCounters s).video.dispEn = s.video.dispEn ∧ (advanceCounters s).video.mode = s.video.mode ∧
    (advanceCounters s).video.tickPend = s.video.tickPend ∧ (advanceCounters s).video.ser = s.video.ser ∧
    (advanceCounters s).video.vsyncOut = s.video.vsyncOut := by
  unfold advanceCounters; split <;> simp

@[simp] theorem advanceCounters_profile (s : State) : (advanceCounters s).profile = s.profile := by
  simp [State.profile]

@[simp] theorem lineStart_frame (s : State) :
    (lineStart s).cfg = s.cfg ∧ (lineStart s).keys = s.keys ∧ (lineStart s).ini = s.ini ∧
    (lineStart s).rsp = s.rsp ∧ (lineStart s).link = s.link ∧ (lineStart s).mem = s.mem ∧
    (lineStart s).inp = s.inp ∧ (lineStart s).host = s.host ∧ (lineStart s).sched = s.sched ∧
    (lineStart s).out = s.out := by
  simp [lineStart]

@[simp] theorem lineStart_video (s : State) :
    (lineStart s).video.dispEn = s.video.dispEn ∧ (lineStart s).video.mode = s.video.mode ∧
    (lineStart s).video.sl = (advanceCounters s).video.sl ∧ (lineStart s).video.fr = (advanceCounters s).video.fr ∧
    (lineStart s).video.tickPend = false ∧ (lineStart s).video.ser = { s.video.ser with busy := false } ∧
    (lineStart s).video.vsyncOut = s.video.vsyncOut := by
  simp [lineStart]

@[simp] theorem lineStart_profile (s : State) : (lineStart s).profile = s.profile := by simp [State.profile]

@[simp] theorem lineStart_lineClass (s : State) : (lineStart s).lineClass = (advanceCounters s).lineClass := by
  simp [State.lineClass]

theorem abandon_advance (s : State) : abandonRow (advanceCounters (enterScanline (raiseScanline s))) = lineStart s := by
  have h : (s.withVideo { s.video with tickPend := false }).profile = s.profile := rfl
  unfold abandonRow lineStart advanceCounters
  simp only [enterScanline_raise, h, State.withVideo_video]
  split <;> rfl

/-- TICK in one line (40_clock_serializer_renderer.md R121). -/
theorem execTick_eq {s : State} (h1 : hasDisplay s = true) (h2 : s.video.dispEn = true) :
    execTick s = .next (pollWait (lineAction (advanceCounters s).lineClass (lineStart s))) := by
  have h : scanlineHandler (raiseScanline s) = lineAction (advanceCounters s).lineClass (lineStart s) := by
    simp only [scanlineHandler, abandon_advance, leaveHandler_eq, lineStart_lineClass]
  simp [execTick, displayStep, h1, h2, h]

/-- Reading a row moves SER only. -/
theorem serReadRow_video (n : Nat) (s : State) :
    (serReadRow n s).video = { s.video with ser := (serReadRow n s).video.ser } := by
  induction n generalizing s with
  | zero => rfl
  | succ n ih => unfold serReadRow; rw [ih]; simp [serReadByte_video]

theorem serReadByte_out (s : State) : ∃ l, (serReadByte s).out = s.out ++ l := by
  unfold serReadByte; split <;> simp [serGfx1, serGfx8, serAttr, serText, serEmit]

theorem serReadRow_out (n : Nat) (s : State) : ∃ l, (serReadRow n s).out = s.out ++ l := by
  induction n generalizing s with
  | zero => exact ⟨[], by simp [serReadRow]⟩
  | succ n ih =>
    obtain ⟨a, ha⟩ := serReadByte_out s
    obtain ⟨b, hb⟩ := ih (serReadByte s)
    exact ⟨a ++ b, by simp [serReadRow, hb, ha]⟩

theorem render_video (s : State) : (render s).video = { s.video with ser := (render s).video.ser } := by
  unfold render; dsimp only; split
  · split
    · rfl
    · rw [serReadRow_video]; simp
  · rfl

theorem render_out (s : State) : ∃ l, (render s).out = s.out ++ l := by
  unfold render; dsimp only; split
  · split
    · exact ⟨[], by simp⟩
    · obtain ⟨l, h⟩ := serReadRow_out s.profile.fbPitch
        (s.withVideo { s.video with ser := armSerialiser s.profile s.video.sl s.video.ser })
      exact ⟨l, by rw [h]; simp⟩
  · exact ⟨[], by simp⟩

/-- The line action moves VSYNC_OUT and SER only, in the display group. -/
@[simp] theorem lineAction_video (c : LineClass) (s : State) :
    (lineAction c s).video.dispEn = s.video.dispEn ∧ (lineAction c s).video.mode = s.video.mode ∧
    (lineAction c s).video.sl = s.video.sl ∧ (lineAction c s).video.fr = s.video.fr ∧
    (lineAction c s).video.tickPend = s.video.tickPend ∧ (lineAction c s).video.vsyncOut = vsyncFlag c := by
  unfold lineAction; cases c <;> simp
  rw [render_video]; simp

/-- The trace of a line begins with its LINE event. -/
theorem lineAction_out (c : LineClass) (s : State) :
    ∃ l, (lineAction c s).out = s.out ++ .line s.video.fr s.video.sl c (vsyncFlag c) :: l := by
  unfold lineAction; cases c <;> simp
  obtain ⟨l, hl⟩ := render_out
    (emit (s.withVideo { s.video with vsyncOut := vsyncFlag .active })
      (.line s.video.fr s.video.sl .active (vsyncFlag .active)))
  exact ⟨l, by rw [hl]; simp⟩

/-- The class of the line a TICK starts, read after the whole step. -/
theorem tick_lineClass (c : LineClass) (s : State) :
    (pollWait (lineAction c (lineStart s))).lineClass = (advanceCounters s).lineClass := by
  simp [State.lineClass, State.profile]

/-- A poll in blanking ends phase B and nothing else. -/
theorem pollWait_blank {s : State} (h : isVBlank s = true) :
    pollWait s = s.withHost { s.host with wv := if s.host.wv = .phaseB then .none else s.host.wv } := by
  rcases e : s.host with ⟨wv, res, d, k⟩
  cases wv <;> simp [pollWait, e, h]
  all_goals rw [← e]; rfl

/-- A poll on an active line turns phase A into phase B and changes nothing else. -/
theorem pollWait_active {s : State} (h : isVBlank s = false) :
    pollWait s = s.withHost { s.host with wv := if s.host.wv = .phaseA then .phaseB else s.host.wv } := by
  rcases e : s.host with ⟨wv, res, d, k⟩
  cases wv <;> simp [pollWait, e, h]
  all_goals rw [← e]; rfl

end Sys2Proof.Machine
end

