-- ==== Sys2Proof/Laws/Exec.lean ====
section
/-! SUPPORT. One inversion lemma per meaning: if it answers a next state, its precondition held and the state is this one.
`exec_effective` turns a HOST event into the operation its word spells, so a proof over all operations sees no other HOST. -/

namespace Sys2Proof.Machine

open Sys2Proof

section

variable {s t : State}

/-- The two pops. -/
theorem popKey_next (h : popKey s = .next t) :
    (queueEmpty s = true ∧ t = giveResult s (.byte noKeyCode)) ∨
    (∃ c, queueEmpty s = false ∧ memRead s .qb s.keys.qRd = some c ∧
      t = giveResult (s.withKeys { s.keys with qRd := ringNext s.cfg s.keys.qRd }) (.byte c)) := by
  unfold popKey at h
  rcases qPop_cases s with ⟨h1, e⟩ | ⟨c, h1, h2, e⟩ | ⟨-, -, e⟩ <;> rw [e] at h <;> cases h
  · exact .inl ⟨h1, rfl⟩
  · exact .inr ⟨c, h1, h2, rfl⟩

theorem execKeyGet_next (h : execKeyGet s = .next t) :
    hasDisplay s = true ∧ s.host.wv = .none ∧ s.host.keyReady = true ∧ popKey s = .next t := by
  obtain ⟨a, b, h⟩ := hostStep_next h
  obtain ⟨c, h⟩ := needKeys_next h
  exact ⟨a, b, c, h⟩

theorem execJoyGet_next (h : execJoyGet s = .next t) :
    hasDisplay s = true ∧ s.host.wv = .none ∧ s.host.keyReady = true ∧ popKey s = .next t := by
  obtain ⟨a, b, h⟩ := hostStep_next h
  obtain ⟨c, h⟩ := needKeys_next h
  exact ⟨a, b, c, h⟩

theorem execKeyPressed_next {code : Byte} (h : execKeyPressed code s = .next t) :
    hasDisplay s = true ∧ s.host.wv = .none ∧ s.host.keyReady = true ∧
    t = giveResult s (.bit (keyPressedFlag s code)) := by
  obtain ⟨a, b, h⟩ := hostStep_next h
  obtain ⟨c, h⟩ := needKeys_next h
  cases h; exact ⟨a, b, c, rfl⟩

theorem execKeyFlush_next (h : execKeyFlush s = .next t) :
    hasDisplay s = true ∧ s.host.wv = .none ∧ s.host.keyReady = true ∧
    t = giveResult (s.withKeys { s.keys with qRd := s.keys.qWr }) .none := by
  obtain ⟨a, b, h⟩ := hostStep_next h
  obtain ⟨c, h⟩ := needKeys_next h
  cases h; exact ⟨a, b, c, rfl⟩

theorem execWaitVSync_next (h : execWaitVSync s = .next t) :
    hasDisplay s = true ∧ s.host.wv = .none ∧
    t = pollWait (s.withHost { s.host with wv := .phaseA, res := .none }) := by
  obtain ⟨a, b, h⟩ := hostStep_next h
  cases h; exact ⟨a, b, rfl⟩

theorem execDispIsVSync_next (h : execDispIsVSync s = .next t) :
    hasDisplay s = true ∧ s.host.wv = .none ∧ s.host.dispReady = true ∧ t = giveResult s (.bit (isVBlank s)) := by
  obtain ⟨a, b, h⟩ := hostStep_next h
  obtain ⟨c, h⟩ := needDisplay_next h
  cases h; exact ⟨a, b, c, rfl⟩

theorem execDispInit_next {m : Byte} (h : execDispInit m s = .next t) :
    hasDisplay s = true ∧ s.host.wv = .none ∧ s.video.dispEn = false ∧ m.toNat < s.cfg.profiles.length ∧
    t = dispInit m s := by
  obtain ⟨a, b, h⟩ := hostStep_next h
  split at h
  · cases h
  · rename_i h1
    split at h <;> cases h
    rename_i h2
    exact ⟨a, b, by simpa using h1, Nat.lt_of_not_le h2, rfl⟩

theorem execDispTerm_next (h : execDispTerm s = .next t) :
    hasDisplay s = true ∧ s.host.wv = .none ∧
    t = giveResult (s.withVideo
      { s.video with
        dispEn := false, ser := { s.video.ser with busy := false }, tickPend := false, vsyncOut := false }) .none := by
  obtain ⟨a, b, h⟩ := hostStep_next h
  cases h; exact ⟨a, b, rfl⟩

theorem execKeyInit_next (h : execKeyInit s = .next t) :
    hasDisplay s = true ∧ s.host.wv = .none ∧ s.keys.keyEn = false ∧
    ((s.cfg.role = .display ∧ t = keyInitKeys (keyInitProtocol s)) ∨ (s.cfg.role = .single ∧ t = keyInitKeys s)) := by
  obtain ⟨a, b, h⟩ := hostStep_next h
  split at h
  · cases h
  · rename_i h1
    have h1 : s.keys.keyEn = false := by simpa using h1
    split at h <;> cases h
    · rename_i r; exact ⟨a, b, h1, .inl ⟨r, rfl⟩⟩
    · rename_i r; exact ⟨a, b, h1, .inr ⟨r, rfl⟩⟩

theorem execKeyTerm_next (h : execKeyTerm s = .next t) :
    hasDisplay s = true ∧ s.host.wv = .none ∧
    t = giveResult (s.withKeys { s.keys with keyEn := false }) .none := by
  obtain ⟨a, b, h⟩ := hostStep_next h
  cases h; exact ⟨a, b, rfl⟩

theorem execRdScanline_next (h : execRdScanline s = .next t) :
    hasDisplay s = true ∧ s.host.wv = .none ∧ s.host.dispReady = true ∧ t = giveResult s (.word16 s.video.sl) := by
  obtain ⟨a, b, h⟩ := hostStep_next h
  obtain ⟨c, h⟩ := needDisplay_next h
  cases h; exact ⟨a, b, c, rfl⟩

theorem execRdFrame_next (h : execRdFrame s = .next t) :
    hasDisplay s = true ∧ s.host.wv = .none ∧ s.host.dispReady = true ∧ t = giveResult s (.word32 s.video.fr) := by
  obtain ⟨a, b, h⟩ := hostStep_next h
  obtain ⟨c, h⟩ := needDisplay_next h
  cases h; exact ⟨a, b, c, rfl⟩

theorem hostWrite_next {sp : Space} {limit : Nat} {a : BitVec 16} {v : Byte} (h : hostWrite sp limit a v s = .next t) :
    hasDisplay s = true ∧ s.host.wv = .none ∧ a.toNat < limit ∧ t = giveResult (memWrite s sp a.toNat v) .none := by
  obtain ⟨x, y, h⟩ := hostStep_next h
  split at h <;> cases h
  rename_i h1
  exact ⟨x, y, h1, rfl⟩

theorem hostRead_next {sp : Space} {limit : Nat} {a : BitVec 16} (h : hostRead sp limit a s = .next t) :
    hasDisplay s = true ∧ s.host.wv = .none ∧ a.toNat < limit ∧
    ∃ v, memRead s sp a.toNat = some v ∧ t = giveResult s (.byte v) := by
  obtain ⟨x, y, h⟩ := hostStep_next h
  split at h
  · rename_i h1
    split at h <;> cases h
    rename_i v hv
    exact ⟨x, y, h1, v, hv, rfl⟩
  · cases h

theorem execNoKey_next (h : execNoKey s = .next t) :
    hasDisplay s = true ∧ s.host.wv = .none ∧ t = giveResult s (.byte noKeyCode) := by
  obtain ⟨a, b, h⟩ := hostStep_next h
  cases h; exact ⟨a, b, rfl⟩

theorem execTick_next (h : execTick s = .next t) :
    hasDisplay s = true ∧ s.video.dispEn = true ∧
    t = pollWait (lineAction (advanceCounters s).lineClass (lineStart s)) := by
  obtain ⟨a, b, -⟩ := displayStep_next h
  rw [execTick_eq a b] at h
  cases h; exact ⟨a, b, rfl⟩

theorem execSerRead_next (h : execSerRead s = .next t) :
    hasDisplay s = true ∧ s.cfg.serKind = .spi ∧ s.video.ser.busy = true ∧ t = serReadByte s := by
  unfold execSerRead at h
  split at h
  · cases h
  · rename_i h1
    split at h <;> cases h
    rename_i h2
    have h1 : hasDisplay s = true ∧ s.cfg.serKind = .spi := by simpa using h1
    exact ⟨h1.1, h1.2, by simpa using h2, rfl⟩

theorem lineClassStep_next {c : LineClass} (h : lineClassStep c s = .next t) :
    hasDisplay s = true ∧ s.video.dispEn = true ∧ s.lineClass = c ∧ t = lineAction c s := by
  obtain ⟨a, b, h⟩ := displayStep_next h
  split at h <;> cases h
  rename_i h1
  exact ⟨a, b, h1, rfl⟩

theorem execKeyTick_next (h : execKeyTick s = .next t) :
    s.cfg.role = .single ∧ s.keys.keyEn = true ∧ t = scan s := by
  unfold execKeyTick at h
  split at h
  · cases h
  · rename_i h1
    split at h <;> cases h
    rename_i h2
    exact ⟨by simpa using h1, by simpa using h2, rfl⟩

theorem execSync_next (h : execSync s = .next t) : hasLink s = true ∧ t = rspSync s := by
  obtain ⟨a, h⟩ := linkStep_next h
  cases h; exact ⟨a, rfl⟩

theorem execRowHigh_next (h : execRowHigh s = .next t) : hasLink s = true ∧ t = rspRow true s := by
  obtain ⟨a, h⟩ := linkStep_next h
  cases h; exact ⟨a, rfl⟩

theorem execRowLow_next (h : execRowLow s = .next t) : hasLink s = true ∧ t = rspRow false s := by
  obtain ⟨a, h⟩ := linkStep_next h
  cases h; exact ⟨a, rfl⟩

theorem execRspStep_next (h : execRspStep s = .next t) :
    hasLink s = true ∧ ∃ c rest, s.rsp.rxqI = c :: rest ∧ t = rspByte c (s.withRsp { s.rsp with rxqI := rest }) := by
  obtain ⟨a, h⟩ := linkStep_next h
  split at h <;> cases h
  rename_i c rest hc
  exact ⟨a, c, rest, hc, rfl⟩

theorem execDlvD2I_next (h : execDlvD2I s = .next t) :
    hasLink s = true ∧ ∃ b rest, s.link.d2i = b :: rest ∧
      t = (s.withLink { s.link with d2i := rest }).withRsp { s.rsp with rxqI := s.rsp.rxqI ++ [b] } := by
  obtain ⟨a, h⟩ := linkStep_next h
  split at h <;> cases h
  rename_i b rest hb
  exact ⟨a, b, rest, hb, rfl⟩

theorem execDlvI2D_next (h : execDlvI2D s = .next t) :
    hasLink s = true ∧ ∃ b rest, s.link.i2d = b :: rest ∧
      t = (s.withLink { s.link with i2d := rest }).withIni { s.ini with rxqD := s.ini.rxqD ++ [b] } := by
  obtain ⟨a, h⟩ := linkStep_next h
  split at h <;> cases h
  rename_i b rest hb
  exact ⟨a, b, rest, hb, rfl⟩

theorem execDropD2I_next (h : execDropD2I s = .next t) :
    hasLink s = true ∧ ∃ b rest, s.link.d2i = b :: rest ∧ t = s.withLink { s.link with d2i := rest } := by
  obtain ⟨a, h⟩ := linkStep_next h
  split at h <;> cases h
  rename_i b rest hb
  exact ⟨a, b, rest, hb, rfl⟩

theorem execDropI2D_next (h : execDropI2D s = .next t) :
    hasLink s = true ∧ ∃ b rest, s.link.i2d = b :: rest ∧ t = s.withLink { s.link with i2d := rest } := by
  obtain ⟨a, h⟩ := linkStep_next h
  split at h <;> cases h
  rename_i b rest hb
  exact ⟨a, b, rest, hb, rfl⟩

theorem execGarbleD2I_next {x : Byte} (h : execGarbleD2I x s = .next t) :
    hasLink s = true ∧ ∃ b rest, s.link.d2i = b :: rest ∧ t = s.withLink { s.link with d2i := x :: rest } := by
  obtain ⟨a, h⟩ := linkStep_next h
  split at h <;> cases h
  rename_i b rest hb
  exact ⟨a, b, rest, hb, rfl⟩

theorem execGarbleI2D_next {x : Byte} (h : execGarbleI2D x s = .next t) :
    hasLink s = true ∧ ∃ b rest, s.link.i2d = b :: rest ∧ t = s.withLink { s.link with i2d := x :: rest } := by
  obtain ⟨a, h⟩ := linkStep_next h
  split at h <;> cases h
  rename_i b rest hb
  exact ⟨a, b, rest, hb, rfl⟩

theorem execEnvKeyIn_next {i : Byte} {v : Bool} (h : execEnvKeyIn i v s = .next t) :
    s.cfg.role = .single ∧ i.toNat < s.cfg.nkey ∧
    t = s.withInp { s.inp with keyin := s.inp.keyin.set i.toNat v } := by
  unfold execEnvKeyIn at h
  split at h
  · cases h
  · rename_i h1
    split at h <;> cases h
    rename_i h2
    exact ⟨by simpa using h1, Nat.lt_of_not_le h2, rfl⟩

theorem execEnvColIn_next {v : BitVec 10} (h : execEnvColIn v s = .next t) :
    hasLink s = true ∧ t = s.withInp { s.inp with colin := v } := by
  obtain ⟨a, h⟩ := linkStep_next h
  cases h; exact ⟨a, rfl⟩

theorem execSyncAck_next (h : execSyncAck s = .next t) :
    s.slotInProgress = some 1 ∧ t = latchAck s.cfg.codes.rspSyncAck s := by
  unfold execSyncAck at h
  split at h <;> cases h
  rename_i h1
  exact ⟨h1, rfl⟩

theorem execColdata_next {raw : BitVec 5} (h : execColdata raw s = .next t) :
    t = latchFirst (0#3 ++ raw) s ∨ t = latchSecond (0#3 ++ raw) s := by
  unfold execColdata at h
  split at h <;> cases h
  · exact .inl rfl
  · exact .inr rfl

/-- Every selector names a host operation (30_encoding.md R98). -/
theorem isHostOp_hostOpOf (sel : BitVec 4) (a : BitVec 16) (d : Byte) : isHostOp (hostOpOf sel a d) = true := by
  unfold hostOpOf; split <;> rfl

theorem isHostOp_decodeH32 {w : BitVec 32} {i : Instr} (h : decodeH32 w = some i) : isHostOp i = true := by
  unfold decodeH32 at h
  split at h <;> cases h
  exact isHostOp_hostOpOf _ _ _

/-- A HOST event does what the operation its word spells does. -/
theorem exec_host {w : BitVec 32} {i : Instr} (h : decodeH32 w = some i) (s : State) : exec (.host w) s = exec i s := by
  have hi := isHostOp_decodeH32 h
  simp only [exec, execHost, h]
  cases i <;> first | rfl | (simp [isHostOp, Instr.space] at hi)

/-- An operation that completes is, or wraps, one that is no HOST event. -/
theorem exec_effective {i : Instr} (h : exec i s = .next t) :
    exec (effective i) s = .next t ∧ ∀ w, effective i ≠ .host w := by
  cases i
  case host w =>
    cases e : decodeH32 w with
    | none => simp [exec, execHost, e] at h
    | some j =>
      rw [exec_host e] at h
      refine ⟨by simpa only [effective, e, Option.getD] using h, ?_⟩
      intro w' hw
      simp only [effective, e, Option.getD] at hw
      subst hw
      simpa [isHostOp, Instr.space] using isHostOp_decodeH32 e
  all_goals exact ⟨h, fun _ e => by cases e⟩

/-- A step that completes executes a decoded operation on the state whose script has moved on. -/
theorem step_next (h : step s = .next t) :
    ∃ i rest, fetch s = .ok (i, rest) ∧ exec i (advance s rest) = .next t := by
  unfold step at h
  split at h
  · rename_i i rest hf; exact ⟨i, rest, hf, h⟩
  · cases h

@[simp] theorem advance_frame (s : State) (rest : List Byte) :
    (advance s rest).cfg = s.cfg ∧ (advance s rest).video = s.video ∧ (advance s rest).keys = s.keys ∧
    (advance s rest).ini = s.ini ∧ (advance s rest).rsp = s.rsp ∧ (advance s rest).link = s.link ∧
    (advance s rest).mem = s.mem ∧ (advance s rest).inp = s.inp ∧ (advance s rest).host = s.host ∧
    (advance s rest).out = s.out := by
  simp [advance]

end

end Sys2Proof.Machine
end

