-- ==== Sys2Proof/Laws/Initiator.lean ====
section
/-! SUPPORT. The slots that follow a KeyInit in the middle of a back porch (70_reset_and_hazards.md R318): as long as no byte is
received they keep the idle latches, decode every row to 0, and the scan slot samples no key. -/

namespace Sys2Proof.Machine

open Sys2Proof

/-- The initiator as KeyInit leaves it (45_host_api.md R254), with nothing received since: idle latches, an empty receive
queue, every row decoded to 0, and a memoised table that decodes an idle byte to 0. -/
def IdleCycle (s : State) : Prop :=
  s.ini.rxqD = [] ∧ s.ini.b0 = 0x1F ∧ s.ini.b1 = 0x1F ∧ (∀ m ∈ s.ini.matrix, m = 0) ∧ memRead s .rm 0x1F = some 0

theorem mergeGroups_idle (n : Nat) : mergeGroups n 0 0 = 0 := by simp [mergeGroups]

theorem rxTake_idle (s : State) (h : IdleCycle s) : rxTake s = (none, s) := by simp [rxTake, h.1]

/-- KeyInit leaves an idle cycle, whatever the state before it was, where REMAP decodes an idle byte to 0, as the default
does (R190). -/
theorem keyInitProtocol_idle (s : State) (h : s.cfg.remap[31]? = some 0) : IdleCycle (keyInitProtocol s) := by
  refine ⟨rfl, rfl, rfl, fun m hm => (List.mem_replicate.mp hm).2, ?_⟩
  have := memRead_memWriteFrom .rm 0 s.cfg.remap s (by decide) 31
  rw [if_pos (Nat.zero_le _), Nat.sub_zero, h] at this
  exact this

/-- The default REMAP meets the premise (R190). -/
theorem remap_idle : Config.remap[31]? = some 0 := by decide

theorem keyInitKeys_idle (s : State) (h : IdleCycle s) : IdleCycle (keyInitKeys s) := h

/-- An idle initiator decodes a row to 0, draws nothing and stays idle. -/
theorem decodeRow_idle (r : Nat) (s : State) (h : IdleCycle s) : IdleCycle (decodeRow r s) := by
  obtain ⟨hq, h0, h1, hm, hr⟩ := h
  have hf : memFetch s .rm 31 = (0, s) := by simp [memFetch, hr]
  refine ⟨?_, ?_, ?_, ?_, ?_⟩ <;>
    simp [decodeRow, h0, h1, hf, hq, memRead] <;> try (simpa [memRead] using hr)
  exact fun m hin => (List.mem_or_eq_of_mem_set hin).elim (hm m) (·.trans (mergeGroups_idle _))

/-- R318 with R176: an odd slot that finds RXQ_D empty keeps the latches and decodes 0. -/
theorem pOdd_idle (r : Nat) (s : State) (h : IdleCycle s) : IdleCycle (pOdd r s) := by
  have hc : IdleCycle (if r = 0 then closeSync (rxTake s).1 (rxTake s).2 else closeRow (r - 1) (rxTake s).1 (rxTake s).2) := by
    rw [rxTake_idle s h]
    split
    · exact h
    · exact decodeRow_idle _ s h
  unfold pOdd
  dsimp only
  split
  · exact hc
  · exact hc

/-- R318 with R177: an even slot that finds RXQ_D empty does nothing. -/
theorem pEven_idle (s : State) (h : IdleCycle s) : pEven s = s := by simp [pEven, rxTake_idle s h]

/-- R318: on a display chip the scan slot of an idle cycle samples no key. -/
theorem rawVector_idle (s : State) (h : IdleCycle s) (hrole : s.cfg.role = .display) :
    ∀ b ∈ rawVector s, b = false := by
  intro b hb
  obtain ⟨i, -, rfl⟩ := List.mem_map.mp hb
  have h0 : ∀ n, s.ini.matrix.getD n 0 = 0 := fun n => by
    rw [List.getD_eq_getElem?_getD]
    cases hn : s.ini.matrix[n]? with
    | none => rfl
    | some m => exact h.2.2.2.1 m (List.mem_of_getElem? hn)
  simp only [rawSample, hrole, rawMatrix, h0]
  split <;> simp

end Sys2Proof.Machine
end

