-- ==== Sys2Proof/Laws/PerInstr.lean ====
section
/-! SUPPORT. Statements made per instruction: how many bytes each operation takes in its code space. -/

namespace Sys2Proof

/-- The bytes an operation takes in its code space (30_encoding.md R90, R102): one for the one-byte formats, four for a host
word, and for an event its tag and its operand bytes. -/
def encodedBytes (i : Instr) : Nat :=
  match i with
  | .sync => 1
  | .rowHigh => 1
  | .rowLow => 1
  | .syncAck => 1
  | .coldata _ => 1
  | .keyGet => 4
  | .joyGet => 4
  | .keyPressed _ => 4
  | .keyFlush => 4
  | .waitVSync => 4
  | .dispIsVSync => 4
  | .dispInit _ => 4
  | .dispTerm => 4
  | .keyInit => 4
  | .keyTerm => 4
  | .rdScanline => 4
  | .rdFrame => 4
  | .fbWrite _ _ => 4
  | .fbRead _ => 4
  | .atWrite _ _ => 4
  | .atRead _ => 4
  | .tick => 1
  | .serRead => 1
  | .keyTick => 1
  | .dlvD2I => 1
  | .dlvI2D => 1
  | .dropD2I => 1
  | .dropI2D => 1
  | .garbleD2I _ => 2
  | .garbleI2D _ => 2
  | .rspStep => 1
  | .envKeyIn _ _ => 3
  | .envColIn _ => 3
  | .host _ => 5
  | .noKey => 1
  | .lcActive => 1
  | .lcFront => 1
  | .lcVSync => 1
  | .lcBack => 1

end Sys2Proof

/-- The encoding of an operation has exactly the bytes its format gives it, whatever the link's byte values, and no statement
is longer than five bytes. -/
def Sys2Proof.Laws.EncodedSize.Statement (i : Sys2Proof.Instr) : Prop :=
  (∀ k : Sys2Proof.WireCodes, (Sys2Proof.encode k i).length = Sys2Proof.encodedBytes i) ∧ Sys2Proof.encodedBytes i ≤ 5

namespace Sys2Proof.Laws.EncodedSize

open Sys2Proof

theorem sync : Statement .sync := ⟨fun _ => rfl, Nat.le_of_ble_eq_true rfl⟩
theorem rowHigh : Statement .rowHigh := ⟨fun _ => rfl, Nat.le_of_ble_eq_true rfl⟩
theorem rowLow : Statement .rowLow := ⟨fun _ => rfl, Nat.le_of_ble_eq_true rfl⟩
theorem syncAck : Statement .syncAck := ⟨fun _ => rfl, Nat.le_of_ble_eq_true rfl⟩
theorem coldata (raw : BitVec 5) : Statement (.coldata raw) := ⟨fun _ => rfl, Nat.le_of_ble_eq_true rfl⟩
theorem keyGet : Statement .keyGet := ⟨fun _ => rfl, Nat.le_of_ble_eq_true rfl⟩
theorem joyGet : Statement .joyGet := ⟨fun _ => rfl, Nat.le_of_ble_eq_true rfl⟩
theorem keyPressed (code : Byte) : Statement (.keyPressed code) := ⟨fun _ => rfl, Nat.le_of_ble_eq_true rfl⟩
theorem keyFlush : Statement .keyFlush := ⟨fun _ => rfl, Nat.le_of_ble_eq_true rfl⟩
theorem waitVSync : Statement .waitVSync := ⟨fun _ => rfl, Nat.le_of_ble_eq_true rfl⟩
theorem dispIsVSync : Statement .dispIsVSync := ⟨fun _ => rfl, Nat.le_of_ble_eq_true rfl⟩
theorem dispInit (m : Byte) : Statement (.dispInit m) := ⟨fun _ => rfl, Nat.le_of_ble_eq_true rfl⟩
theorem dispTerm : Statement .dispTerm := ⟨fun _ => rfl, Nat.le_of_ble_eq_true rfl⟩
theorem keyInit : Statement .keyInit := ⟨fun _ => rfl, Nat.le_of_ble_eq_true rfl⟩
theorem keyTerm : Statement .keyTerm := ⟨fun _ => rfl, Nat.le_of_ble_eq_true rfl⟩
theorem rdScanline : Statement .rdScanline := ⟨fun _ => rfl, Nat.le_of_ble_eq_true rfl⟩
theorem rdFrame : Statement .rdFrame := ⟨fun _ => rfl, Nat.le_of_ble_eq_true rfl⟩
theorem fbWrite (a : BitVec 16) (v : Byte) : Statement (.fbWrite a v) := ⟨fun _ => rfl, Nat.le_of_ble_eq_true rfl⟩
theorem fbRead (a : BitVec 16) : Statement (.fbRead a) := ⟨fun _ => rfl, Nat.le_of_ble_eq_true rfl⟩
theorem atWrite (a : BitVec 16) (v : Byte) : Statement (.atWrite a v) := ⟨fun _ => rfl, Nat.le_of_ble_eq_true rfl⟩
theorem atRead (a : BitVec 16) : Statement (.atRead a) := ⟨fun _ => rfl, Nat.le_of_ble_eq_true rfl⟩
theorem tick : Statement .tick := ⟨fun _ => rfl, Nat.le_of_ble_eq_true rfl⟩
theorem serRead : Statement .serRead := ⟨fun _ => rfl, Nat.le_of_ble_eq_true rfl⟩
theorem keyTick : Statement .keyTick := ⟨fun _ => rfl, Nat.le_of_ble_eq_true rfl⟩
theorem dlvD2I : Statement .dlvD2I := ⟨fun _ => rfl, Nat.le_of_ble_eq_true rfl⟩
theorem dlvI2D : Statement .dlvI2D := ⟨fun _ => rfl, Nat.le_of_ble_eq_true rfl⟩
theorem dropD2I : Statement .dropD2I := ⟨fun _ => rfl, Nat.le_of_ble_eq_true rfl⟩
theorem dropI2D : Statement .dropI2D := ⟨fun _ => rfl, Nat.le_of_ble_eq_true rfl⟩
theorem garbleD2I (x : Byte) : Statement (.garbleD2I x) := ⟨fun _ => rfl, Nat.le_of_ble_eq_true rfl⟩
theorem garbleI2D (x : Byte) : Statement (.garbleI2D x) := ⟨fun _ => rfl, Nat.le_of_ble_eq_true rfl⟩
theorem rspStep : Statement .rspStep := ⟨fun _ => rfl, Nat.le_of_ble_eq_true rfl⟩
theorem envKeyIn (index : Byte) (value : Bool) : Statement (.envKeyIn index value) := ⟨fun _ => rfl, Nat.le_of_ble_eq_true rfl⟩
theorem envColIn (v : BitVec 10) : Statement (.envColIn v) := ⟨fun _ => rfl, Nat.le_of_ble_eq_true rfl⟩
theorem host (w : BitVec 32) : Statement (.host w) := ⟨fun _ => rfl, Nat.le_of_ble_eq_true rfl⟩
theorem noKey : Statement .noKey := ⟨fun _ => rfl, Nat.le_of_ble_eq_true rfl⟩
theorem lcActive : Statement .lcActive := ⟨fun _ => rfl, Nat.le_of_ble_eq_true rfl⟩
theorem lcFront : Statement .lcFront := ⟨fun _ => rfl, Nat.le_of_ble_eq_true rfl⟩
theorem lcVSync : Statement .lcVSync := ⟨fun _ => rfl, Nat.le_of_ble_eq_true rfl⟩
theorem lcBack : Statement .lcBack := ⟨fun _ => rfl, Nat.le_of_ble_eq_true rfl⟩

end Sys2Proof.Laws.EncodedSize
end

