-- ==== Sys2Proof/Tests/Slice0.lean ====
section
/-! SUPPORT. Tests: decoding of words written out from the spec's encodings, the WellFormed smoke, one-step vectors of
95_test_vectors.md, and for every statement with hypotheses a state and operands that meet them. -/

namespace Sys2Proof.Tests

open Sys2Proof Sys2Proof.Machine

/-! ### Decoding. The words are those of 30_encoding.md R90 to R102 and of 95_test_vectors.md, group E -/

theorem test_decode_sync : decodeIn Config.codes .command [0b01010011] = .ok (.sync, []) := by decide
theorem test_decode_rowHigh : decodeIn Config.codes .command [0b01001000] = .ok (.rowHigh, []) := by decide
theorem test_decode_rowLow : decodeIn Config.codes .command [0b01001100] = .ok (.rowLow, []) := by decide
theorem test_decode_command_reserved :
    decodeIn Config.codes .command [0x41] = .error (.reservedByte 0x41) := by decide
theorem test_decode_syncAck : decodeIn Config.codes .ack [0b01000001] = .ok (.syncAck, []) := by decide
theorem test_decode_coldata : decodeIn Config.codes .colData [0b00011110] = .ok (.coldata 0b11110, []) := by decide
theorem test_decode_coldata_reserved :
    decodeIn Config.codes .colData [0b00100000] = .error (.reservedByte 0x20) := by decide

theorem test_decode_keyGet : decodeH32 0b0000_0000_0000000000000000_00000000 = some .keyGet := by decide
theorem test_decode_joyGet : decodeH32 0b0001_0000_0000000000000000_00000000 = some .joyGet := by decide
theorem test_decode_keyPressed : decodeH32 0b0010_0000_0000000000000000_00000100 = some (.keyPressed 4) := by decide
theorem test_decode_keyFlush : decodeH32 0b0011_0000_0000000000000000_00000000 = some .keyFlush := by decide
theorem test_decode_waitVSync : decodeH32 0b0100_0000_0000000000000000_00000000 = some .waitVSync := by decide
theorem test_decode_dispIsVSync : decodeH32 0b0101_0000_0000000000000000_00000000 = some .dispIsVSync := by decide
theorem test_decode_dispInit : decodeH32 0b0110_0000_0000000000000000_00000001 = some (.dispInit 1) := by decide
theorem test_decode_dispTerm : decodeH32 0b0111_0000_0000000000000000_00000000 = some .dispTerm := by decide
theorem test_decode_keyInit : decodeH32 0b1000_0000_0000000000000000_00000000 = some .keyInit := by decide
theorem test_decode_keyTerm : decodeH32 0b1001_0000_0000000000000000_00000000 = some .keyTerm := by decide
theorem test_decode_rdScanline : decodeH32 0b1010_0000_0000000000000000_00000000 = some .rdScanline := by decide
theorem test_decode_rdFrame : decodeH32 0b1011_0000_0000000000000000_00000000 = some .rdFrame := by decide
theorem test_decode_fbWrite : decodeH32 0b1100_0000_0000000000010101_11111111 = some (.fbWrite 21 0xFF) := by decide
theorem test_decode_fbRead : decodeH32 0b1101_0000_0000000000010101_00000000 = some (.fbRead 21) := by decide
theorem test_decode_atWrite : decodeH32 0b1110_0000_0000000000000010_01001110 = some (.atWrite 2 0x4E) := by decide
theorem test_decode_atRead : decodeH32 0b1111_0000_0000000000000010_00000000 = some (.atRead 2) := by decide
theorem test_decode_host_bytes :
    decodeIn Config.codes .host [0xC0, 0x00, 0x15, 0xFF] = .ok (.fbWrite 21 0xFF, []) := by decide

theorem test_decode_tick : decodeScript [0x10] = .ok (.tick, []) := by decide
theorem test_decode_serRead : decodeScript [0x11] = .ok (.serRead, []) := by decide
theorem test_decode_keyTick : decodeScript [0x12] = .ok (.keyTick, []) := by decide
theorem test_decode_dlvD2I : decodeScript [0x20] = .ok (.dlvD2I, []) := by decide
theorem test_decode_dlvI2D : decodeScript [0x21] = .ok (.dlvI2D, []) := by decide
theorem test_decode_dropD2I : decodeScript [0x22] = .ok (.dropD2I, []) := by decide
theorem test_decode_dropI2D : decodeScript [0x23] = .ok (.dropI2D, []) := by decide
theorem test_decode_garbleD2I : decodeScript [0x24, 0x52] = .ok (.garbleD2I 0x52, []) := by decide
theorem test_decode_garbleI2D : decodeScript [0x25, 0x00, 0x10] = .ok (.garbleI2D 0, [0x10]) := by decide
theorem test_decode_rspStep : decodeScript [0x30] = .ok (.rspStep, []) := by decide
theorem test_decode_envKeyIn : decodeScript [0x40, 0x02, 0x01] = .ok (.envKeyIn 2 true, []) := by decide
theorem test_decode_envKeyIn_reserved : decodeScript [0x40, 0x02, 0x02] = .error (.reservedOperand 2) := by decide
theorem test_decode_envColIn : decodeScript [0x41, 0x03, 0xFE] = .ok (.envColIn 0x3FE, []) := by decide
theorem test_decode_host : decodeScript [0x80, 0xC0, 0x00, 0x15, 0xFF] = .ok (.host 0xC00015FF, []) := by decide
theorem test_decode_host_reserved :
    decodeScript [0x80, 0x01, 0x00, 0x00, 0x00] = .error (.reservedHostWord 0x01000000) := by decide
theorem test_decode_reserved_tag : decodeScript [0x13] = .error (.reservedTag 0x13) := by decide
theorem test_decode_truncated : decodeScript [0x80, 0xC0] = .error .truncated := by decide

theorem test_decode_noKey : decodeIn Config.codes .keyCode [0x00] = .ok (.noKey, []) := by decide
theorem test_decode_lineClasses :
    decodeLineClass 0b00 = some .lcActive ∧ decodeLineClass 0b01 = some .lcFront ∧
    decodeLineClass 0b10 = some .lcVSync ∧ decodeLineClass 0b11 = some .lcBack ∧ decodeLineClass 4 = none := by decide

/-! ### WellFormed: each check of R99 refuses a term that breaks it -/

theorem test_wellFormed_ok : (Instr.host 0xC00015FF).wellFormed = true := by decide
theorem test_wellFormed_rsv : (Instr.host 0x01000000).wellFormed = false := by decide
theorem test_wellFormed_addr : (Instr.host 0x60000100).wellFormed = false := by decide
theorem test_wellFormed_data : (Instr.host 0x00000001).wellFormed = false := by decide

/-! ### Small states -/

/-- A single chip with the spec's own small profile and three keys. -/
def cfgSingle : Cfg := { Config.default with role := .single, profiles := [Config.test60], nkey := 3 }

/-- The same with the profile `p`. -/
def cfgLayout (p : VideoProfile) : Cfg := { cfgSingle with profiles := [p] }

/-- 160 one-byte pixels a row. -/
def gfx8 : VideoProfile :=
  { Config.test60 with layout := .gfx8, fbPitch := 160, fbRows := 40, fbSize := 6400, lpr := 1 }

/-- One attribute byte for two frame buffer bytes and eight lines. -/
def attr : VideoProfile :=
  { Config.test60 with
    layout := .attr, fbPitch := 64, fbRows := 40, fbSize := 2560, lpr := 1,
    atPitch := 32, atRows := 5, atSize := 160, lpar := 8, cellW := 2 }

/-- Characters of eight glyph lines; every byte of the font is `0x24`. -/
def text : VideoProfile :=
  { Config.test60 with
    layout := .text, fbPitch := 40, fbRows := 5, fbSize := 200, lpr := 8, charH := 8, lpg := 1,
    font := List.replicate 2048 0x24 }

/-- A display chip with its input chip, the small profile and two rows. -/
def cfgDisplay : Cfg := { Config.default with profiles := [Config.test60] }

/-- The state after reset with both Init operations done and line `l` in progress; the queue empty, no memory written. -/
def running (c : Cfg) (l : BitVec 16) : State :=
  let s := State.resetWith c
  { s with
    video := { s.video with dispEn := true, sl := l }
    keys := { s.keys with keyEn := true }
    host := { s.host with dispReady := true, keyReady := true } }

/-- `s` with a row of `len` bytes armed at `base`. -/
def armed (s : State) (base len idx : Nat) : State :=
  { s with video := { s.video with
      ser := { busy := true, line := 7, base := base, len := len, idx := idx, abase := 8, gl := 2 } } }

/-- `s` with key entry 0 set. -/
def withKey (s : State) (k : KeyState) : State := setKeyState s 0 k

/-- `s` with queue offsets set. -/
def withQueue (s : State) (wr rd : Nat) : State := { s with keys := { s.keys with qWr := wr, qRd := rd } }

/-- What a step leaves, if it leaves a state. -/
def left : Answer → Option State
  | .next t => some t
  | .fault _ => none
  | .refused _ => none

/-! ### One-step vectors, by the group of 95_test_vectors.md they are taken from -/

/-- T5: line 489 of VGA480 to line 490, the first VSYNC line. -/
theorem test_tick_vsync :
    (left (exec .tick (running { cfgSingle with profiles := [Config.vga480] } 489))).map
      (fun t => (t.video.sl, t.video.vsyncOut, t.out)) = some (490, true, [.line 0 490 .vsync true]) := by decide

/-- T3: the last active line arms the last row. -/
theorem test_tick_arms :
    (left (exec .tick (running { cfgSingle with profiles := [Config.vga480] } 478))).map (·.video.ser) =
      some { busy := true, line := 479, base := 2380, len := 20, idx := 0, abase := 0, gl := 0 } := by decide

/-- P-1: the last byte of a row clears SER.busy; its pixels are 1,0,1,0,0,1,0,1 from left to right. -/
theorem test_serRead_last :
    (left (exec .serRead (memWrite (armed (running cfgSingle 7) 20 20 19) .fb 39 0xA5))).map
      (fun t => (t.video.ser.busy, t.video.ser.idx, t.out)) = some (false, 20,
        [.pix 7 19 0xA5 none (.bits [true, false, true, false, false, true, false, true])]) := by decide

/-- P-6: with two bytes a cell, byte 5 is covered by attribute byte 2. -/
theorem test_serRead_attr :
    (left (exec .serRead
        (memWrite (memWrite (armed (running (cfgLayout attr) 7) 64 64 5) .fb 69 0x0F) .atr 10 0x4E))).map (·.out) =
      some [.pix 7 5 0x0F (some 0x4E) (.bits [false, false, false, false, true, true, true, true])] := by decide

/-- P-4: one pixel of the byte's value. -/
theorem test_serRead_gfx8 :
    (left (exec .serRead (memWrite (armed (running (cfgLayout gfx8) 7) 160 160 3) .fb 163 0x0C))).map (·.out) =
      some [.pix 7 3 0x0C none (.level 0x0C)] := by decide

/-- P-2: bit 7 is the leftmost pixel. -/
theorem test_bitPixels : bitPixels 0x80 = [true, false, false, false, false, false, false, false] := by decide

/-- The SCAN vector: RAW = (1, 0, 1), all Idle, pushes 1 then 3. -/
theorem test_keyTick :
    (left (exec .keyTick
        { running cfgSingle 0 with inp := { keyin := [true, false, true], colin := 0x3FF } })).map
      (fun t => (t.mem.qbMem, t.keys.ks)) =
      some ([(0, 1), (1, 3)], [{ rel := 3, rpt := 5 }, { rel := 0, rpt := 0 }, { rel := 3, rpt := 5 }]) := by decide

/-- W9 and its mirror. -/
theorem test_dlvI2D :
    (left (exec .dlvI2D { running cfgDisplay 0 with link := { d2i := [], i2d := [0x41] } })).map
      (fun t => (t.link.i2d, t.ini.rxqD)) = some ([], [0x41]) := by decide

theorem test_dlvD2I :
    (left (exec .dlvD2I { running cfgDisplay 0 with link := { d2i := [0x53, 0x48], i2d := [] } })).map
      (fun t => (t.link.d2i, t.rsp.rxqI)) = some ([0x48], [0x53]) := by decide

/-- W10 and its mirror. -/
theorem test_dropI2D :
    (left (exec .dropI2D { running cfgDisplay 0 with link := { d2i := [], i2d := [0x1E, 0x1F] } })).map (·.link.i2d) =
      some [0x1F] := by decide

theorem test_dropD2I :
    (left (exec .dropD2I { running cfgDisplay 0 with link := { d2i := [0x53, 0x48], i2d := [] } })).map (·.link.d2i) =
      some [0x48] := by decide

/-- W11 and W12. -/
theorem test_garbleI2D :
    (left (exec (.garbleI2D 0x00) { running cfgDisplay 0 with link := { d2i := [], i2d := [0x41] } })).map (·.link.i2d) =
      some [0x00] := by decide

theorem test_garbleD2I :
    (left (exec (.garbleD2I 0x52) { running cfgDisplay 0 with link := { d2i := [0x53], i2d := [] } })).map (·.link.d2i) =
      some [0x52] := by decide

/-- W5: one sample, both bytes, ROWSEL cleared; the next byte waits. -/
theorem test_rspStep_rowLow :
    (left (exec .rspStep
        { running cfgDisplay 0 with
          rsp := { rowsel := true, rxqI := [0x4C, 0x48] }, inp := { keyin := [], colin := 0x1FF } })).map
      (fun t => (t.rsp, t.link.i2d)) = some ({ rowsel := false, rxqI := [0x48] }, [0x1F, 0x0F]) := by decide

/-- W7: the acknowledgement value as a command is consumed and ignored. -/
theorem test_rspStep_reserved :
    (left (exec .rspStep { running cfgDisplay 0 with rsp := { rowsel := true, rxqI := [0x41] } })).map
      (fun t => (t.rsp, t.link.i2d)) = some ({ rowsel := true, rxqI := [] }, []) := by decide

/-- W1, W3 and W4 as commands of their own. -/
theorem test_sync :
    (left (exec .sync (running cfgDisplay 0))).map (fun t => (t.rsp.rowsel, t.link.i2d, t.out)) =
      some (true, [0x41], [.rowsel true]) := by decide

theorem test_rowHigh :
    (left (exec .rowHigh (running cfgDisplay 0))).map (fun t => (t.rsp.rowsel, t.link.i2d)) =
      some (true, [0x1F, 0x1F]) := by decide

theorem test_rowLow :
    (left (exec .rowLow { running cfgDisplay 0 with inp := { keyin := [], colin := 0x3FE } })).map
      (fun t => (t.rsp.rowsel, t.link.i2d)) = some (false, [0x1E, 0x1F]) := by decide

/-- R49: a variant with seven columns, whose pins 0 to 2 are absent, answers 1 in their place. -/
theorem test_absent_pins :
    (left (exec .rowLow
        { running { cfgDisplay with ncol := 7, colPins := 0x3F8 } 0 with inp := { keyin := [], colin := 0x000 } })).map
      (·.link.i2d) = some [0x07, 0x00] := by decide

/-- I2's byte as an operation of its own: slot 1 is line 47 of TEST60. -/
theorem test_syncAck : (left (exec .syncAck (running cfgDisplay 47))).map (·.ini.linkOk) = some true := by decide

/-- I5's byte: slot 2 latches the first byte of row 0. -/
theorem test_coldata : (left (exec (.coldata 0x1E) (running cfgDisplay 48))).map (·.ini.b0) = some 0x1E := by decide

/-- I8: with no byte in slot 3 the stale `0x0F` is used, and the row decodes to `0x201`. -/
theorem test_slot_stale_byte :
    (pOdd 1 (let s := keyInitProtocol (running cfgDisplay 49)
             { s with ini := { s.ini with b0 := 0x1E, b1 := 0x0F } })).ini.matrix = [0x201, 0] := by decide +kernel

/-- I10 and R318: after KeyInit's protocol part, with no byte received, an odd slot keeps the idle latches and decodes 0. -/
theorem test_slot_after_keyInit :
    (pOdd 1 (keyInitProtocol (running cfgDisplay 49))).ini.matrix = [0, 0] := by decide +kernel

/-- FN has no byte outside layout TEXT. -/
theorem test_font_only_in_text :
    memRead (running (cfgLayout { Config.test60 with font := [0x24] }) 7) .fn 0 = none := by decide

/-- Q6: the pop wraps round the ring. -/
theorem test_keyGet :
    (left (exec .keyGet (memWrite (withQueue (running cfgSingle 0) 1 4) .qb 4 7))).map
      (fun t => (t.keys.qRd, t.host.res)) = some (0, .byte 7) := by decide

/-- H2: the same queue. -/
theorem test_joyGet :
    (left (exec .joyGet (memWrite (withQueue (running cfgSingle 0) 1 0) .qb 0 3))).map (·.host.res) =
      some (.byte 3) := by decide

/-- H17. -/
theorem test_keyGet_uninitialised : exec .keyGet State.reset = .fault .keysNotInitialised := rfl

/-- H3 and H5. -/
theorem test_keyPressed :
    (left (exec (.keyPressed 1) (withKey (running cfgSingle 0) { rel := 2, rpt := 1 }))).map (·.host.res) =
      some (.bit true) := by decide

theorem test_keyPressed_no_key :
    (left (exec (.keyPressed 255) (running cfgSingle 0))).map (·.host.res) = some (.bit false) := by decide

/-- H6. -/
theorem test_keyFlush :
    (left (exec .keyFlush (withQueue (running cfgSingle 0) 4 1))).map (·.keys.qRd) = some 4 := by decide

/-- H19: on an active line phase A ends at once. -/
theorem test_waitVSync :
    (left (exec .waitVSync (running cfgSingle 38))).map (·.host.wv) = some .phaseB := by decide

/-- H20: the tick that makes SL = 0 ends phase A. -/
theorem test_tick_ends_phaseA :
    (left (exec .tick { running cfgSingle 59 with
      host := { wv := .phaseA, res := .none, dispReady := true, keyReady := true } })).map
      (fun t => (t.video.sl, t.video.fr, t.host.wv)) = some (0, 1, .phaseB) := by decide

/-- H7: line 40 of TEST60 is blank. -/
theorem test_dispIsVSync :
    (left (exec .dispIsVSync (running cfgSingle 40))).map (·.host.res) = some (.bit true) := by decide

/-- H8. -/
theorem test_dispInit :
    (left (exec (.dispInit 0) State.reset)).map (fun t => (t.video.dispEn, t.video.sl, t.video.fr)) =
      some (true, 0, 0) := by decide

/-- H10. -/
theorem test_dispTerm :
    (left (exec .dispTerm (running cfgSingle 7))).map (fun t => (t.video.dispEn, t.video.sl)) = some (false, 7) := by
  decide

/-- H11, the part a display chip has: the first byte of the memoised table. -/
theorem test_keyInit :
    (left (exec .keyInit (State.resetWith cfgDisplay))).map (fun t => (t.keys.keyEn, t.ini.b0, memRead t .rm 0x1E)) =
      some (true, 0x1F, some 0x10) := by decide +kernel

/-- H12. -/
theorem test_keyTerm : (left (exec .keyTerm (running cfgSingle 7))).map (·.keys.keyEn) = some false := by decide

/-- H13. -/
theorem test_rdScanline :
    (left (exec .rdScanline (running cfgSingle 59))).map (·.host.res) = some (.word16 59) := by decide

theorem test_rdFrame : (left (exec .rdFrame (running cfgSingle 59))).map (·.host.res) = some (.word32 0) := by decide

/-- H14. -/
theorem test_fbWrite :
    (left (exec (.fbWrite 19 0xFF) (running cfgSingle 0))).map (·.mem.fbMem) = some [(19, 0xFF)] := by decide

theorem test_fbRead :
    (left (exec (.fbRead 19) (memWrite (running cfgSingle 0) .fb 19 0xFF))).map (·.host.res) = some (.byte 0xFF) := by
  decide

/-- H16: no attribute buffer in this layout. -/
theorem test_atWrite_none : exec (.atWrite 0 0) (running cfgSingle 0) = .refused .outOfRange := rfl

theorem test_atRead :
    (left (exec (.atRead 159) (memWrite (running (cfgLayout attr) 0) .atr 159 0x4E))).map (·.host.res) =
      some (.byte 0x4E) := by decide

/-- `80 c0 00 13 ff` is H14 as an event. -/
theorem test_host :
    (left (exec (.host 0xC00013FF) (running cfgSingle 0))).map (·.mem.fbMem) = some [(19, 0xFF)] := by decide

/-- Q1. -/
theorem test_noKey : (left (exec .noKey (running cfgSingle 0))).map (·.host.res) = some (.byte 0) := by decide

theorem test_envKeyIn :
    (left (exec (.envKeyIn 2 true) (running cfgSingle 0))).map (·.inp.keyin) = some [false, false, true] := by decide

theorem test_envColIn :
    (left (exec (.envColIn 0x3FE) (running cfgDisplay 0))).map (·.inp.colin) = some 0x3FE := by decide

/-- Group K: one line of each class of TEST60. -/
theorem test_lcActive :
    (left (exec .lcActive (running cfgSingle 39))).map (fun t => (t.video.ser.base, t.out)) =
      some (18, [.line 0 39 .active false]) := by decide

theorem test_lcFront :
    (left (exec .lcFront (running cfgSingle 43))).map (·.out) = some [.line 0 43 .front false] := by decide

theorem test_lcVSync : (left (exec .lcVSync (running cfgSingle 45))).map (·.video.vsyncOut) = some true := by decide

/-- Line 46 is slot 0, which sends SYNC. -/
theorem test_lcBack : (left (exec .lcBack (running cfgDisplay 46))).map (·.link.d2i) = some [0x53] := by decide

/-- B4: the repeat. -/
theorem test_debounce_repeat :
    (keyState (debounceKey 0 true (withKey (running cfgSingle 0) { rel := 3, rpt := 1 })) 0,
      (debounceKey 0 true (withKey (running cfgSingle 0) { rel := 3, rpt := 1 })).mem.qbMem) =
      ({ rel := 3, rpt := 2 }, [(0, 1)]) := by decide

/-- Group M: raw bits 1 and 8 closed are columns 9 and 2. -/
theorem test_merge :
    mergeGroups 10 (Config.remapByte (pack0 0x2FD)) (Config.remapByte (pack1 0x2FD)) = 0x102 ∧
    mergeGroups 7 (Config.remapByte 0x00) (Config.remapByte 0x00) = 0x07F := by decide

/-- A step runs what withFetchWord placed: SYNC's byte. -/
theorem test_withFetchWord :
    (left (step (State.reset.withFetchWord 8 0x53))).map (·.link.i2d) = some [0x41] := by decide

/-- The bits of a 32-bit row are one H32 word. -/
theorem test_decodeTableWord :
    decodeTableWord 32 0x60000000 = some (.dispInit 0) ∧ decodeTableWord 8 0x80 = some (.host 0) ∧
    decodeTableWord 2 3 = some .lcBack ∧ decodeTableWord 8 0x1E = some (.coldata 0x1E) := by decide

/-! ### Witnesses: for each statement with hypotheses, states and operands that meet them, one for each clause -/

theorem witness_DecodeOfEncode : Config.codes.distinct = true ∧ (Instr.host 0xC0FFFFFF).wellFormed = true := by decide

theorem witness_EncodeOfDecode :
    decodeIn Config.codes .script [0x41, 0x03, 0xFF, 0x10] = .ok (.envColIn 0x3FF, [0x10]) := by decide

/-- The words at the bounds of each way to be reserved: `rsv`, an address below selector 12, data where none is used. -/
theorem witness_ReservedHostWordsAreRefused :
    decodeH32 (0xB#4 ++ 0#4 ++ 1#16 ++ 0#8) = none ∧ decodeH32 (0xC#4 ++ 0#4 ++ 1#16 ++ 0#8) = some (.fbWrite 1 0) ∧
    decodeH32 (0x3#4 ++ 0#4 ++ 0#16 ++ 1#8) = none ∧ decodeH32 (0x2#4 ++ 0#4 ++ 0#16 ++ 1#8) = some (.keyPressed 1) ∧
    decodeH32 (0x0#4 ++ 1#4 ++ 0#16 ++ 0#8) = none := by decide

/-- A state whose script is one TICK, and one whose script is empty. -/
theorem witness_StepRunsTheDecodedInstruction :
    decodeIn cfgSingle.codes (running cfgSingle 0).sched.space [0x10] = .ok (.tick, []) ∧
    decodeIn cfgSingle.codes (running cfgSingle 0).sched.space (running cfgSingle 0).sched.script = .error .endOfScript := by
  decide

theorem witness_ScriptRunsItsStatements :
    (running cfgSingle 0).sched.space = .script ∧
    ∀ i ∈ [Instr.tick, .host 0xC00013FF, .serRead], i.space = .script ∧ i.wellFormed = true := by decide

theorem witness_CommandsAtTheResponder : (running cfgDisplay 0).cfg.role ≠ .single := by decide

/-- One received byte for each clause: the three commands and a reserved byte. -/
theorem witness_RspStepHandlesOneByte :
    let s := fun c : Byte => { running cfgDisplay 0 with rsp := { rowsel := false, rxqI := [c] } }
    (s 0x53).cfg.role ≠ .single ∧ (s 0x53).cfg.codes.distinct = true ∧ (s 0x53).rsp.rxqI = 0x53 :: [] ∧
    (0x53 : Byte) = (s 0x53).cfg.codes.cmdSync ∧ (0x48 : Byte) = (s 0x48).cfg.codes.cmdRowHigh ∧
    (0x4C : Byte) = (s 0x4C).cfg.codes.cmdRowLow ∧
    (0x52 : Byte) ≠ (s 0x52).cfg.codes.cmdSync ∧ (0x52 : Byte) ≠ (s 0x52).cfg.codes.cmdRowHigh ∧
    (0x52 : Byte) ≠ (s 0x52).cfg.codes.cmdRowLow := by decide

/-- Both channels hold a byte: the premises of every clause on the link. -/
theorem witness_LinkDeliversOldestByte :
    let s := { running cfgDisplay 0 with link := { d2i := [0x53], i2d := [0x53] } }
    s.cfg.role ≠ .single ∧ s.link.d2i = 0x53 :: [] ∧ s.link.i2d = 0x53 :: [] := by decide

theorem witness_LinkLosesOrCorruptsOldestByte :
    let s := { running cfgDisplay 0 with link := { d2i := [0x1E, 0x1F], i2d := [0x1E, 0x1F] } }
    s.cfg.role ≠ .single ∧ s.link.d2i = 0x1E :: [0x1F] ∧ s.link.i2d = 0x1E :: [0x1F] := by decide

/-- Lines 47, 48 and 49 of TEST60 for row 0, and lines 50 and 51 for the last row. -/
theorem witness_ResponseBytesAreTaken :
    (running cfgDisplay 47).cfg.role = .display ∧ (running cfgDisplay 47).video.dispEn = true ∧
    (running cfgDisplay 47).keys.keyEn = true ∧ 1 < (running cfgDisplay 47).cfg.nrow ∧
    (running cfgDisplay 47).video.sl.toNat = bpStart (running cfgDisplay 47).profile + 1 ∧
    (running cfgDisplay 48).video.sl.toNat = bpStart (running cfgDisplay 48).profile + (2 * 0 + 2) ∧
    (running cfgDisplay 49).video.sl.toNat = bpStart (running cfgDisplay 49).profile + (2 * 0 + 3) ∧
    (running cfgDisplay 50).video.sl.toNat = bpStart (running cfgDisplay 50).profile + (2 * 1 + 2) ∧
    (running cfgDisplay 51).video.sl.toNat = bpStart (running cfgDisplay 51).profile + (2 * 1 + 3) := by decide

theorem hostReady_running : HostReady (running cfgSingle 7) := ⟨by decide, by decide⟩

/-- An empty queue, and one whose only event stands in the last slot of the ring. -/
theorem witness_KeyGetPopsOneEvent :
    HostReady (running cfgSingle 7) ∧ (running cfgSingle 7).host.keyReady = true ∧
    (running cfgSingle 7).keys.qRd = (running cfgSingle 7).keys.qWr ∧
    (let s := memWrite (withQueue (running cfgSingle 7) 0 4) .qb 4 7
     s.keys.qRd ≠ s.keys.qWr ∧ memRead s .qb s.keys.qRd = some 7) := ⟨hostReady_running, by decide⟩

/-- The first and the last key code, and the codes on either side of them. -/
theorem witness_KeyPressedAnswers :
    HostReady (running cfgSingle 7) ∧ (running cfgSingle 7).host.keyReady = true ∧
    (running cfgSingle 7).keys.ks[(1 : Byte).toNat - 1]? = some { rel := 0, rpt := 0 } ∧
    (3 : Byte).toNat ≤ (running cfgSingle 7).cfg.nkey ∧
    (running cfgSingle 7).keys.ks[(3 : Byte).toNat - 1]? = some { rel := 0, rpt := 0 } ∧
    (0 : Byte).toNat = 0 ∧ (running cfgSingle 7).cfg.nkey < (4 : Byte).toNat := ⟨hostReady_running, by decide⟩

theorem witness_KeyFlushEmptiesTheQueue :
    HostReady (running cfgSingle 7) ∧ (running cfgSingle 7).host.keyReady = true := ⟨hostReady_running, by decide⟩

/-- The last active line and the first blank one. -/
theorem witness_WaitVSyncEntersItsPhases :
    HostReady (running cfgSingle 39) ∧ (running cfgSingle 39).lineClass = .active ∧
    HostReady (running cfgSingle 40) ∧ (running cfgSingle 40).lineClass ≠ .active :=
  ⟨⟨by decide, by decide⟩, by decide, ⟨by decide, by decide⟩, by decide⟩

theorem witness_RasterReads : HostReady (running cfgSingle 7) ∧ (running cfgSingle 7).host.dispReady = true :=
  ⟨hostReady_running, by decide⟩

/-- The last mode that is a profile, the first that is none, and a display that runs. -/
theorem witness_DispInitStartsTheDisplay :
    HostReady State.reset ∧ State.reset.video.dispEn = false ∧ (0 : Byte).toNat < State.reset.cfg.profiles.length ∧
    State.reset.cfg.profiles.length ≤ (1 : Byte).toNat ∧ HostReady (running cfgSingle 7) ∧
    (running cfgSingle 7).video.dispEn = true :=
  ⟨⟨by decide, by decide⟩, by decide, by decide, by decide, hostReady_running, by decide⟩

theorem witness_TermOperationsStop : HostReady (running cfgSingle 7) := hostReady_running

theorem witness_KeyInitInitialises :
    (HostReady (State.resetWith cfgSingle) ∧ (State.resetWith cfgSingle).keys.keyEn = false ∧
      (State.resetWith cfgSingle).cfg.role = .single) ∧
    (HostReady State.reset ∧ State.reset.keys.keyEn = false ∧ State.reset.cfg.role = .display) ∧
    (HostReady (running cfgSingle 7) ∧ (running cfgSingle 7).keys.keyEn = true) :=
  ⟨⟨⟨by decide, by decide⟩, by decide, by decide⟩, ⟨⟨by decide, by decide⟩, by decide, by decide⟩,
    hostReady_running, by decide⟩

/-- The first and last offset of each buffer of the attribute layout, and the first past its end. -/
theorem witness_BufferWrites :
    HostReady (running (cfgLayout attr) 7) ∧ (running (cfgLayout attr) 7).video.dispEn = true ∧
    (0 : BitVec 16).toNat < fbLimit (running (cfgLayout attr) 7) ∧
    (2559 : BitVec 16).toNat < fbLimit (running (cfgLayout attr) 7) ∧
    fbLimit (running (cfgLayout attr) 7) ≤ (2560 : BitVec 16).toNat ∧
    (159 : BitVec 16).toNat < atLimit (running (cfgLayout attr) 7) ∧
    atLimit (running (cfgLayout attr) 7) ≤ (160 : BitVec 16).toNat :=
  ⟨⟨by decide, by decide⟩, by decide⟩

theorem witness_BufferReads :
    let s := memWrite (memWrite (running (cfgLayout attr) 7) .fb 2559 0x0F) .atr 159 0x4E
    HostReady s ∧ (2559 : BitVec 16).toNat < fbLimit s ∧ memRead s .fb (2559 : BitVec 16).toNat = some 0x0F ∧
    fbLimit s ≤ (2560 : BitVec 16).toNat ∧ (159 : BitVec 16).toNat < atLimit s ∧
    memRead s .atr (159 : BitVec 16).toNat = some 0x4E ∧ atLimit s ≤ (160 : BitVec 16).toNat :=
  ⟨⟨by decide, by decide⟩, by decide⟩

/-- FbWrite as an event, and a reserved word. -/
theorem witness_HostEventRunsItsOperation :
    decodeH32 0xC00013FF = some (.fbWrite 19 0xFF) ∧ HostOpReady (.fbWrite 19 0xFF) (running cfgSingle 7) ∧
    decodeH32 0x01000000 = none :=
  ⟨by decide, ⟨hostReady_running, by decide⟩, by decide⟩

theorem witness_NoKeyIsHandedToTheHost : HostReady (running cfgSingle 7) := hostReady_running

/-- The last key index of a single chip, and a chip that has column pins. -/
theorem witness_EnvironmentSetsInputs :
    (running cfgSingle 7).cfg.role = .single ∧ (2 : Byte).toNat < (running cfgSingle 7).cfg.nkey ∧
    (running cfgDisplay 7).cfg.role ≠ .single := by decide

/-- The last line of a frame, and the one before it. -/
theorem witness_TickAdvancesTheCounters :
    DisplayRuns (running cfgSingle 59) ∧
    (running cfgSingle 59).video.sl.toNat = (running cfgSingle 59).profile.vTotal - 1 ∧
    DisplayRuns (running cfgSingle 58) ∧
    (running cfgSingle 58).video.sl.toNat ≠ (running cfgSingle 58).profile.vTotal - 1 :=
  ⟨⟨by decide, by decide⟩, by decide, ⟨by decide, by decide⟩, by decide⟩

/-- The lines before the first front-porch line and before the first VSYNC line. -/
theorem witness_TickOnFrontAndSyncLines :
    DisplayRuns (running cfgSingle 39) ∧
    (running cfgSingle 39).video.sl.toNat ≠ (running cfgSingle 39).profile.vTotal - 1 ∧
    classify (running cfgSingle 39).profile ((running cfgSingle 39).video.sl + 1).toNat = .front ∧
    DisplayRuns (running cfgSingle 43) ∧
    (running cfgSingle 43).video.sl.toNat ≠ (running cfgSingle 43).profile.vTotal - 1 ∧
    classify (running cfgSingle 43).profile ((running cfgSingle 43).video.sl + 1).toNat = .vsync :=
  ⟨⟨by decide, by decide⟩, by decide, by decide, ⟨by decide, by decide⟩, by decide, by decide⟩

/-- Slot 0 of a single chip, slot 0 while scanning is off, and the first slot past the scan slot. -/
theorem witness_IdleBackPorchLines :
    let off := { running cfgDisplay 45 with keys := { (running cfgDisplay 45).keys with keyEn := false } }
    (DisplayRuns (running cfgSingle 45) ∧ (running cfgSingle 45).video.sl.toNat ≠ (running cfgSingle 45).profile.vTotal - 1 ∧
      classify (running cfgSingle 45).profile ((running cfgSingle 45).video.sl + 1).toNat = .back ∧
      (running cfgSingle 45).cfg.role = .single) ∧
    (DisplayRuns off ∧ off.video.sl.toNat ≠ off.profile.vTotal - 1 ∧
      classify off.profile (off.video.sl + 1).toNat = .back ∧ off.keys.keyEn = false) ∧
    (DisplayRuns (running cfgDisplay 52) ∧ (running cfgDisplay 52).video.sl.toNat ≠ (running cfgDisplay 52).profile.vTotal - 1 ∧
      classify (running cfgDisplay 52).profile ((running cfgDisplay 52).video.sl + 1).toNat = .back ∧
      2 * (running cfgDisplay 52).cfg.nrow + 2 <
        slotOf (running cfgDisplay 52).profile ((running cfgDisplay 52).video.sl + 1).toNat) :=
  ⟨⟨⟨by decide, by decide⟩, by decide, by decide, by decide⟩, ⟨⟨by decide, by decide⟩, by decide, by decide, by decide⟩,
    ⟨by decide, by decide⟩, by decide, by decide, by decide⟩

/-- The last line with a row, and in a letterboxed profile the first line without one, with either kind of serialiser. -/
theorem witness_ActiveTickArmsTheSerialiser :
    let box := fun k => running { cfgLayout { Config.test60 with fbRows := 9, fbSize := 18 } with serKind := k } 35
    let ok := fun s : State => DisplayRuns s ∧ classify s.profile (advanceCounters s).video.sl.toNat = .active
    (ok (running cfgSingle 38) ∧ (running cfgSingle 38).cfg.serKind = .spi ∧
      (advanceCounters (running cfgSingle 38)).video.sl.toNat / (running cfgSingle 38).profile.lpr <
        (running cfgSingle 38).profile.fbRows) ∧
    ∀ k, ok (box k) ∧ (box k).cfg.serKind = k ∧
      (box k).profile.fbRows ≤ (advanceCounters (box k)).video.sl.toNat / (box k).profile.lpr :=
  ⟨⟨⟨⟨by decide, by decide⟩, by decide⟩, by decide⟩, fun k => by
    cases k <;> exact ⟨⟨⟨by decide, by decide⟩, by decide⟩, by decide, by decide⟩⟩

theorem witness_SlotZeroSendsSync : SlotComes (running cfgDisplay 45) 0 := ⟨by decide, by decide, by decide, by decide, by decide⟩

/-- With and without a byte. -/
theorem witness_SlotOneClosesSync :
    SlotComes (running cfgDisplay 46) 1 ∧ 0 < (running cfgDisplay 46).cfg.nrow ∧ (running cfgDisplay 46).ini.rxqD = [] ∧
    (let s := { running cfgDisplay 46 with ini := { (running cfgDisplay 46).ini with rxqD := [0x41] } }
     SlotComes s 1 ∧ s.ini.rxqD = 0x41 :: []) :=
  ⟨⟨by decide, by decide, by decide, by decide, by decide⟩, by decide, by decide,
    ⟨by decide, by decide, by decide, by decide, by decide⟩, by decide⟩

/-- A display chip with both latches at 0x1F and the table's entry for it, before line `l`. -/
def latched (l : BitVec 16) : State :=
  let s := memWrite (running cfgDisplay l) .rm 0x1F 0
  { s with ini := { s.ini with b0 := 0x1F, b1 := 0x1F } }

/-- Slot 3 closes row 0 and sends row 1; slot 5 closes the last row. -/
theorem witness_OddSlotDecodesTheRow :
    SlotComes (latched 48) (2 * 1 + 1) ∧ 1 < (latched 48).cfg.nrow ∧ SlotComes (latched 50) (2 * 2 + 1) ∧
    2 = (latched 50).cfg.nrow ∧ (latched 48).ini.rxqD.headD (latched 48).ini.b1 = 0x1F ∧
    memRead (latched 48) .rm (latched 48).ini.b0.toNat = some 0 ∧ memRead (latched 48) .rm (0x1F : Byte).toNat = some 0 ∧
    memRead (latched 50) .rm (latched 50).ini.b0.toNat = some 0 ∧ memRead (latched 50) .rm (0x1F : Byte).toNat = some 0 :=
  ⟨⟨by decide, by decide, by decide, by decide, by decide⟩, by decide,
    ⟨by decide, by decide, by decide, by decide, by decide⟩, by decide⟩

/-- The first row, with and without a byte, and the last row. -/
theorem witness_EvenSlotTakesTheFirstByte :
    SlotComes (running cfgDisplay 47) (2 * 0 + 2) ∧ SlotComes (running cfgDisplay 49) (2 * 1 + 2) ∧
    1 < (running cfgDisplay 49).cfg.nrow ∧ (running cfgDisplay 47).ini.rxqD = [] ∧
    (let s := { running cfgDisplay 47 with ini := { (running cfgDisplay 47).ini with rxqD := [0x1E] } }
     SlotComes s (2 * 0 + 2) ∧ s.ini.rxqD = 0x1E :: []) :=
  ⟨⟨by decide, by decide, by decide, by decide, by decide⟩, ⟨by decide, by decide, by decide, by decide, by decide⟩,
    by decide, by decide, ⟨by decide, by decide, by decide, by decide, by decide⟩, by decide⟩

theorem witness_ScanSlotDebouncesEveryKey :
    SlotComes (running cfgDisplay 51) (2 * (running cfgDisplay 51).cfg.nrow + 2) :=
  ⟨by decide, by decide, by decide, by decide, by decide⟩

/-- One armed state for each layout, and for each what nothing has written: the byte, the attribute, or both. -/
theorem witness_SerReadShiftsOneElement :
    let reads := fun s : State => (s.profile.layout, memRead s .fb (s.video.ser.base + s.video.ser.idx),
      memRead s .atr (s.video.ser.abase + s.video.ser.idx / s.profile.cellW))
    let a := armed (running (cfgLayout attr) 7) 64 64 5
    (a.cfg.role ≠ .input ∧ a.cfg.serKind = .spi ∧ a.video.ser.busy = true) ∧
    reads (memWrite (armed (running cfgSingle 7) 2 2 1) .fb 3 0xA5) = (.gfx1, some 0xA5, none) ∧
    reads (armed (running cfgSingle 7) 2 2 1) = (.gfx1, none, none) ∧
    reads (memWrite (armed (running (cfgLayout gfx8) 2) 160 160 3) .fb 163 0x0C) = (.gfx8, some 0x0C, none) ∧
    reads (armed (running (cfgLayout gfx8) 2) 160 160 3) = (.gfx8, none, none) ∧
    reads (memWrite (memWrite a .fb 69 0x0F) .atr 10 0x4E) = (.attr, some 0x0F, some 0x4E) ∧
    reads (memWrite a .fb 69 0x0F) = (.attr, some 0x0F, none) ∧
    reads (memWrite a .atr 10 0x4E) = (.attr, none, some 0x4E) ∧ reads a = (.attr, none, none) := by decide

/-- Every byte of this font is 0x24. -/
theorem text_font (s : State) (h : s.profile = text) (ch : Byte) (gl : Nat) (hg : gl < 8) :
    memRead s .fn (ch.toNat * 8 + gl) = some 0x24 := by
  have hc : ch.toNat * 8 + gl < 2048 := by have := ch.isLt; omega
  simp only [memRead, h, text, List.getElem?_replicate, if_pos hc, if_true]

/-- P-7's glyph: character 0x41, glyph line 2; and a character nothing has written. -/
theorem witness_SerReadShiftsOneElement_text :
    let s := armed (running (cfgLayout text) 7) 40 40 0
    let w := memWrite s .fb 40 0x41
    (s.cfg.role ≠ .input ∧ s.cfg.serKind = .spi ∧ s.video.ser.busy = true ∧ s.profile.layout = .text ∧
      memRead s .fb (s.video.ser.base + s.video.ser.idx) = none ∧
      memRead s .fn ((freeByte s.sched.draws).toNat * s.profile.charH + s.video.ser.gl) = some 0x24) ∧
    (w.video.ser.busy = true ∧ w.profile.layout = .text ∧
      memRead w .fb (w.video.ser.base + w.video.ser.idx) = some 0x41 ∧
      memRead w .fn ((0x41 : Byte).toNat * w.profile.charH + w.video.ser.gl) = some 0x24) :=
  ⟨⟨by decide, by decide, rfl, rfl, rfl, text_font _ rfl _ 2 (by decide)⟩, rfl, rfl, by decide,
    text_font _ rfl 0x41 2 (by decide)⟩

/-- One line of each class. -/
theorem witness_LineClassCodesRun :
    DisplayRuns (running cfgDisplay 43) ∧ (running cfgDisplay 43).lineClass = .front ∧
    DisplayRuns (running cfgDisplay 45) ∧ (running cfgDisplay 45).lineClass = .vsync ∧
    DisplayRuns (running cfgDisplay 39) ∧ (running cfgDisplay 39).lineClass = .active ∧
    DisplayRuns (running cfgDisplay 46) ∧ (running cfgDisplay 46).lineClass = .back :=
  ⟨⟨by decide, by decide⟩, by decide, ⟨by decide, by decide⟩, by decide, ⟨by decide, by decide⟩, by decide,
    ⟨by decide, by decide⟩, by decide⟩

theorem witness_KeyTickScansEveryKey :
    (running cfgSingle 7).cfg.role = .single ∧ (running cfgSingle 7).keys.keyEn = true := by decide

/-- The SCAN vector's samples. -/
theorem witness_ScanWorksKeyByKey :
    (running cfgSingle 7).keys.ks.length = [true, false, true].length ∧
    scanCodes [true, false, true] (running cfgSingle 7) = [1, 3] := by decide

/-- B1, B4, B3, B7 and B8. -/
theorem witness_DebounceKeyTransitions :
    let s := fun k : KeyState => (withKey (running cfgSingle 0) k).keys.ks[0]?
    s { rel := 0, rpt := 0 } = some { rel := 0, rpt := 0 } ∧ s { rel := 3, rpt := 1 } = some { rel := 3, rpt := 1 } ∧
    s { rel := 3, rpt := 5 } = some { rel := 3, rpt := 5 } ∧ s { rel := 1, rpt := 4 } = some { rel := 1, rpt := 4 } ∧
    s { rel := 0, rpt := 4 } = some { rel := 0, rpt := 4 } := by decide

/-- Q5, full; Q3, the push that wraps. -/
theorem witness_PushStoresOrDrops :
    (let s := withQueue (running cfgSingle 0) 4 0
     (s.keys.qWr + 1) % (s.cfg.queueCap + 1) = s.keys.qRd) ∧
    (let s := withQueue (running cfgSingle 0) 4 2
     (s.keys.qWr + 1) % (s.cfg.queueCap + 1) ≠ s.keys.qRd) := by decide

theorem cfgSingle_legal : cfgSingle.legal = true := by decide

theorem cfgDisplay_legal : cfgDisplay.legal = true := by decide +kernel

/-- Ticks 0, 1, 5, 6 and 7 of S2, with a queue that has room and one that is full. -/
theorem witness_HeldKeyEvents :
    cfgSingle.legal = true ∧ (running cfgSingle 0).keys.ks[0]? = some { rel := 0, rpt := 0 } ∧
    [0, 1, 5, 6, 7].map (eventTick 5 2) = [true, false, true, false, true] ∧
    queueFull (heldFor 0 0 (running cfgSingle 0)) = false ∧
    queueFull (heldFor 0 5 (running cfgSingle 0)) = false ∧
    queueFull (heldFor 0 0 (withQueue (running cfgSingle 0) 4 0)) = true := ⟨cfgSingle_legal, by decide⟩

/-- S3: two deasserted samples are a glitch, three a release. -/
theorem witness_GlitchIsAbsorbed :
    cfgSingle.legal = true ∧ 0 < cfgSingle.nkey ∧
    (withKey (running cfgSingle 0) { rel := 3, rpt := 4 }).keys.ks[0]? =
      some { rel := (running cfgSingle 0).cfg.keycntRel, rpt := 4 } ∧
    2 < (running cfgSingle 0).cfg.keycntRel.toNat ∧ 3 = (running cfgSingle 0).cfg.keycntRel.toNat ∧ (4 : Byte) ≠ 1 :=
  ⟨cfgSingle_legal, by decide⟩

theorem witness_QueueKeepsOldestInOrder :
    let s := withQueue (running cfgSingle 0) 4 4
    s.keys.qWr < s.cfg.queueSlots ∧ s.keys.qRd = s.keys.qWr := by decide

/-- A running single chip and a running display chip meet the raster invariant. -/
theorem rasterInv_single : RasterInv (running cfgSingle 59) :=
  ⟨⟨cfgSingle_legal, by decide⟩, by decide, by decide, by decide⟩

theorem witness_FrameAdvanceLaw : RasterInv (running cfgSingle 59) ∧ DisplayRuns (running cfgSingle 59) :=
  ⟨rasterInv_single, by decide, by decide⟩

/-- A line of each layout; in the small profile the last line with a row, of which only the first byte is written. -/
theorem witness_BitbangLineShowsItsRow :
    let bang := fun (p : VideoProfile) (l : BitVec 16) => running { cfgLayout p with serKind := .bitbang } l
    let ok := fun s : State => DisplayRuns s ∧ s.cfg.serKind = .bitbang ∧
      classify s.profile (advanceCounters s).video.sl.toNat = .active ∧
      (advanceCounters s).video.sl.toNat / s.profile.lpr < s.profile.fbRows ∧ 0 < s.profile.fbPitch
    (let s := memWrite (bang Config.test60 38) .fb 18 0xA0
     ok s ∧ s.profile.layout = .gfx1 ∧ memRead s .fb 18 = some 0xA0 ∧ memRead s .fb 19 = none) ∧
    (ok (bang gfx8 3) ∧ (bang gfx8 3).profile.layout = .gfx8) ∧
    (ok (bang attr 3) ∧ (bang attr 3).profile.layout = .attr) ∧
    (ok (bang text 3) ∧ (bang text 3).profile.layout = .text ∧
      ∀ ch : Byte, memRead (bang text 3) .fn
        (ch.toNat * (bang text 3).profile.charH +
          (advanceCounters (bang text 3)).video.sl.toNat % (bang text 3).profile.lpr / (bang text 3).profile.lpg) =
        some 0x24) :=
  ⟨⟨⟨⟨by decide, by decide⟩, by decide⟩, by decide⟩, ⟨⟨⟨by decide, by decide⟩, by decide⟩, by decide⟩,
    ⟨⟨⟨by decide, by decide⟩, by decide⟩, by decide⟩,
    ⟨⟨⟨by decide, by decide⟩, by decide⟩, rfl, fun ch => text_font _ rfl ch 4 (by decide)⟩⟩

/-- Before slot 2 and before slot 4, with the table KeyInit fills and both row commands delivered. -/
def beforeSlot (l : BitVec 16) : State :=
  memWriteFrom .rm 0 Config.remap { running cfgDisplay l with rsp := { rowsel := true, rxqI := [0x4C, 0x48] } }

theorem beforeSlot_table (l : BitVec 16) (b : Byte) :
    memRead (beforeSlot l) .rm b.toNat = some (Config.remapByte b) := by
  have hb : b.toNat < 256 := b.isLt
  have h : Config.remap[b.toNat]? = some (Config.remapByte b) := by simp [Config.remap, hb]
  simp only [beforeSlot, memRead_memWriteFrom _ _ _ _ (by decide : Space.rm ≠ .fn), Nat.zero_le, if_true, Nat.sub_zero, h]

theorem witness_RowExchangeDecodesTheColumns :
    (RasterInv (beforeSlot 47) ∧ 0 < (beforeSlot 47).cfg.nrow ∧ SlotComes (beforeSlot 47) (2 * 0 + 2)) ∧
    (RasterInv (beforeSlot 49) ∧ 1 < (beforeSlot 49).cfg.nrow ∧ SlotComes (beforeSlot 49) (2 * 1 + 2)) ∧
    (beforeSlot 47).cfg.ncol = 10 ∧ (beforeSlot 47).ini.matrix.length = (beforeSlot 47).cfg.nrow ∧
    (∀ b : Byte, memRead (beforeSlot 47) .rm b.toNat = some (Config.remapByte b)) ∧
    (beforeSlot 47).link.i2d = [] ∧ (beforeSlot 47).ini.rxqD = [] ∧
    (beforeSlot 47).rsp.rxqI = byteOfCmd (beforeSlot 47).cfg.codes .rowLow :: [0x48] := by
  have e : ∀ l, (beforeSlot l).cfg = cfgDisplay ∧ (beforeSlot l).video = (running cfgDisplay l).video ∧
      (beforeSlot l).keys = (running cfgDisplay l).keys ∧ (beforeSlot l).ini = (running cfgDisplay l).ini ∧
      (beforeSlot l).link = (running cfgDisplay l).link := fun l => by simp [beforeSlot]; rfl
  have p : ∀ l, (beforeSlot l).profile = Config.test60 := fun l => by
    simp only [State.profile, (e l).1, (e l).2.1]; rfl
  have r : ∀ l : BitVec 16, l.toNat < 60 → classify Config.test60 l.toNat ≠ .vsync → RasterInv (beforeSlot l) := by
    intro l h1 h2
    refine ⟨⟨by rw [(e l).1]; exact cfgDisplay_legal, ?_⟩, ?_, ?_, ?_⟩
    · rw [(e l).1, (e l).2.1]; exact (by decide : (0 : Byte).toNat < cfgDisplay.profiles.length)
    · rw [p l, (e l).2.1]; exact h1
    · simp only [State.lineClass, p l, (e l).2.1]
      simpa [running, State.resetWith] using h2
    · rw [(e l).2.1]; rfl
  have c : ∀ (l : BitVec 16) (n : Nat), l.toNat ≠ 59 → classify Config.test60 (l + 1).toNat = .back →
      slotOf Config.test60 (l + 1).toNat = n → SlotComes (beforeSlot l) n := by
    intro l n h1 h2 h3
    have a : (advanceCounters (beforeSlot l)).video.sl = l + 1 := by
      have : (beforeSlot l).video.sl = l := by rw [(e l).2.1]; rfl
      simp [advanceCounters, p l, this, Config.test60, h1]
    have q : (advanceCounters (beforeSlot l)).profile = Config.test60 := by
      rw [advanceCounters_profile, p l]
    refine ⟨by rw [(e l).1]; rfl, by rw [(e l).2.1]; rfl, by rw [(e l).2.2.1]; rfl, ?_, by rw [p l, a]; exact h3⟩
    simp only [State.lineClass, q, a]; exact h2
  refine ⟨⟨r 47 (by decide) (by decide), by rw [(e 47).1]; decide, c 47 2 (by decide) (by decide) (by decide)⟩,
    ⟨r 49 (by decide) (by decide), by rw [(e 49).1]; decide, c 49 4 (by decide) (by decide) (by decide)⟩,
    by rw [(e 47).1]; rfl, ?_, beforeSlot_table 47, ?_, ?_, ?_⟩
  · rw [(e 47).1, (e 47).2.2.2.1]; rfl
  · rw [(e 47).2.2.2.2]; rfl
  · rw [(e 47).2.2.2.1]; rfl
  · rw [(e 47).1]; simp [beforeSlot]; rfl

/-- `s` with the host inside WaitVSync. -/
def waiting (s : State) (p : WaitPhase) : State := { s with host := { s.host with wv := p } }

/-- A host that waits, and the TICK that ends phase B. -/
theorem witness_WaitVSyncReturnsInBlanking :
    (waiting (running cfgSingle 39) .phaseB).host.wv ≠ .none ∧ (running cfgSingle 39).cfg.role ≠ .input ∧
    isHostOp (effective (.host 0)) = true ∧
    (left (exec .tick (waiting (running cfgSingle 39) .phaseB))).map (·.host.wv) = some .none := by decide

/-- Operations that complete: the premise of the whole-machine rules and of the invariants every step keeps. -/
theorem witness_ConfigurationNeverChanges : (left (exec .tick (running cfgDisplay 45))).isSome = true := by decide

theorem witness_OnlyInitAndTermChangeAnEnable :
    (left (exec (.host 0x60000000) State.reset)).map (·.video.dispEn) = some true ∧
    (left (exec .keyTerm (running cfgSingle 7))).map (·.keys.keyEn) = some false := by decide

theorem witness_OnlyTheHostWritesItsState :
    isHostOp (effective .keyTick) = false ∧ Instr.keyTick ≠ .noKey ∧
    (left (exec .keyTick (running cfgSingle 7))).isSome = true := by decide

theorem witness_HostLeavesInterruptOwnedState :
    isHostOp (effective (.host 0x00000000)) = true ∧ (∀ m, effective (.host 0x00000000) ≠ .dispInit m) ∧
    effective (.host 0x00000000) ≠ .dispTerm ∧ effective (.host 0x00000000) ≠ .keyInit ∧
    (left (exec (.host 0x00000000) (running cfgSingle 7))).isSome = true := by
  have h : effective (.host 0x00000000) = .keyGet := by decide
  rw [h]
  exact ⟨by decide, fun _ h => (by cases h), by decide, by decide, by decide⟩

theorem witness_DisabledStepsDoNotExist :
    (State.reset.cfg.role ≠ .input ∧ State.reset.video.dispEn = false ∧ State.reset.cfg.serKind = .spi ∧
      State.reset.video.ser.busy = false) ∧
    ((State.resetWith cfgSingle).cfg.role = .single ∧ (State.resetWith cfgSingle).keys.keyEn = false) ∧
    (State.reset.cfg.role ≠ .single ∧ State.reset.rsp.rxqI = [] ∧ State.reset.link.d2i = [] ∧ State.reset.link.i2d = []) ∧
    ((State.resetWith { cfgDisplay with role := .input }).cfg.role = .input ∧ isHostOp .keyGet = true) := by decide

/-- Reset, and the last byte of each buffer before anything was written. -/
theorem witness_UninitialisedReadsFault :
    HostReady State.reset ∧ State.reset.host.dispReady = false ∧ State.reset.host.keyReady = false ∧
    (let s := running (cfgLayout attr) 7
     HostReady s ∧ (2559 : BitVec 16).toNat < fbLimit s ∧ memRead s .fb (2559 : BitVec 16).toNat = none ∧
     (159 : BitVec 16).toNat < atLimit s ∧ memRead s .atr (159 : BitVec 16).toNat = none) :=
  ⟨⟨by decide, by decide⟩, by decide, by decide, ⟨by decide, by decide⟩, by decide⟩

/-- A state in which a step answers a next state and every invariant holds: a single chip whose script is one TICK. -/
def oneTick : State := (running cfgSingle 59).withFetchWord 8 0x10

theorem witness_StepKeepsMemoryCanonical : oneTick.mem.wf = true ∧ (left (step oneTick)).isSome = true := by decide

theorem witness_StepKeepsTheRaster : RasterInv oneTick :=
  ⟨⟨cfgSingle_legal, by decide⟩, by decide, by decide, by decide⟩

/-- The queue holds nothing; and one code in its last slot. -/
theorem witness_StepKeepsTheQueue :
    QueueInv oneTick ∧ QueueInv (memWrite (withQueue oneTick 0 4) .qb 4 3) := by
  refine ⟨⟨cfgSingle_legal, by decide, by decide, fun n h => ?_⟩, ⟨cfgSingle_legal, by decide, by decide, fun n h => ?_⟩⟩
  · exact absurd h (by simp [show queueCount oneTick = 0 by decide])
  · have e : queueCount (memWrite (withQueue oneTick 0 4) .qb 4 3) = 1 := by decide
    rw [e] at h
    obtain rfl : n = 0 := by omega
    exact ⟨3, by decide, by decide, by decide⟩

theorem witness_StepKeepsTheDebounceRanges : DebounceInv (withKey oneTick { rel := 3, rpt := 5 }) :=
  ⟨cfgSingle_legal, by decide, by decide⟩

/-- A row in progress at its last byte. -/
theorem witness_StepKeepsTheSerialiserInside : SerialiserInv (armed oneTick 18 2 1) :=
  ⟨⟨cfgSingle_legal, by decide⟩, fun _ => by decide⟩

/-- A display chip after KeyInit. -/
theorem witness_StepKeepsTheMemoisedTable : MemoInv (beforeSlot 47) := by
  have e : (beforeSlot 47).cfg = cfgDisplay ∧ (beforeSlot 47).host = (running cfgDisplay 47).host := by
    simp [beforeSlot]; rfl
  refine ⟨by rw [e.1]; exact cfgDisplay_legal, fun _ => by rw [e.2]; rfl, fun _ => by rw [e.2]; rfl, ?_⟩
  intro _ _ b hb
  have h := beforeSlot_table 47 (BitVec.ofNat 8 b)
  rw [BitVec.toNat_ofNat, Nat.mod_eq_of_lt hb] at h
  have t : Config.remap[b]? = some (Config.remapByte (BitVec.ofNat 8 b)) := by simp [Config.remap, hb]
  rw [h, e.1]
  exact t.symm

/-- R311: after a KeyInit in the middle of a back porch no command was sent, so slot 2 expects no byte; once one was sent,
it does. -/
theorem test_slotExpectsByte :
    ¬ SlotExpectsByte 2 (running cfgDisplay 47) ∧
    SlotExpectsByte 2 (setSession (running cfgDisplay 47) .rowLow 0 0) ∧
    ¬ SlotExpectsByte 4 (setSession (running cfgDisplay 49) .rowLow 0 0) := by
  simp [SlotExpectsByte, setSession, running, State.resetWith, cfgDisplay, Config.default]

/-- R307: on line 4 of TEST60, once it has started, a write to row 1 (bytes 2 and 3) breaks the premise, a write to row 2 does
not; before its TICK nothing is barred. -/
theorem test_hostWritesBeforeLine :
    let s := emit (running cfgSingle 4) (.line 0 4 .active false)
    ¬ HostWritesBeforeLine 4 (.fbWrite 3 0xFF) s ∧ HostWritesBeforeLine 4 (.fbWrite 4 0xFF) s ∧
    HostWritesBeforeLine 4 (.host 0xC00003FF) (running cfgSingle 4) := by
  refine ⟨fun h => ?_, fun _ _ => ⟨?_, ?_⟩, fun h => ?_⟩
  · exact (h ⟨by decide, by decide, by decide⟩ (by decide)).1 3 0xFF rfl ⟨by decide, by decide, by decide⟩
  · rintro a v e ⟨-, -, h⟩
    cases e
    exact absurd h (by decide)
  · intro a v e
    cases e
  · exact absurd h.2.2 (by decide)

theorem witness_ResetValues : cfgDisplay.legal = true ∧ { cfgSingle with nkey := 0 }.legal = false :=
  ⟨cfgDisplay_legal, by decide⟩

end Sys2Proof.Tests
end

section
/-! PROOF. The statements about the state: what a host operation can do to the machine, what every other operation leaves of the
keys and of the memory, the debounce counters, and the counters of the raster over a whole frame. -/

namespace Sys2Proof.Machine

open Sys2Proof

/-! ### What a host operation can do -/

/-- The forms a state can have after the host operation `i` completed in `s` (45_host_api.md R246 to R261). -/
inductive HostEffect (s : State) (i : Instr) : State → Prop where
  /-- The host's side moves, and of the keys at most the read offset and the enable. -/
  | answer (en : Bool) (rd : Nat) (h : HostSide) :
      HostEffect s i ((s.withKeys { s.keys with keyEn := en, qRd := rd }).withHost h)
  /-- One byte of a display buffer is written. -/
  | store (sp : Space) (a : Nat) (v : Byte) (h : HostSide) (hsp : sp = .fb ∨ sp = .atr) :
      HostEffect s i ((memWrite s sp a v).withHost h)
  /-- DispInit and DispTerm write the display group. -/
  | display (v : Video) (h : HostSide) (hi : (∃ m, i = .dispInit m) ∨ i = .dispTerm) :
      HostEffect s i ((s.withVideo v).withHost h)
  /-- KeyInit, with the protocol's part on a display chip. -/
  | keyInit (u : State) (hu : u = s ∨ u = keyInitProtocol s) (hi : i = .keyInit) : HostEffect s i (keyInitKeys u)

section
variable {s t : State} {i : Instr}

theorem hostEffect_withHost (h : HostSide) : HostEffect s i (s.withHost h) :=
  .answer s.keys.keyEn s.keys.qRd h

theorem hostEffect_popKey (h : popKey s = .next t) : HostEffect s i t := by
  obtain ⟨-, rfl⟩ | ⟨c, -, -, rfl⟩ := popKey_next h
  · exact hostEffect_withHost _
  · exact .answer s.keys.keyEn _ _

theorem hostEffect_pollWait (h : HostSide) : HostEffect s i (pollWait (s.withHost h)) := by
  cases hb : isVBlank (s.withHost h) with
  | true => rw [pollWait_blank hb]; exact hostEffect_withHost _
  | false => rw [pollWait_active hb]; exact hostEffect_withHost _

/-- Everything a host operation can do. -/
theorem hostEffect_of_exec (hi : isHostOp i = true) (h : exec i s = .next t) : HostEffect s i t := by
  cases i
  case keyGet => obtain ⟨-, -, -, h⟩ := execKeyGet_next h; exact hostEffect_popKey h
  case joyGet => obtain ⟨-, -, -, h⟩ := execJoyGet_next h; exact hostEffect_popKey h
  case keyPressed => obtain ⟨-, -, -, rfl⟩ := execKeyPressed_next h; exact hostEffect_withHost _
  case keyFlush => obtain ⟨-, -, -, rfl⟩ := execKeyFlush_next h; exact .answer s.keys.keyEn _ _
  case waitVSync => obtain ⟨-, -, rfl⟩ := execWaitVSync_next h; exact hostEffect_pollWait _
  case dispIsVSync => obtain ⟨-, -, -, rfl⟩ := execDispIsVSync_next h; exact hostEffect_withHost _
  case dispInit m => obtain ⟨-, -, -, -, rfl⟩ := execDispInit_next h; exact .display _ _ (.inl ⟨m, rfl⟩)
  case dispTerm => obtain ⟨-, -, rfl⟩ := execDispTerm_next h; exact .display _ _ (.inr rfl)
  case keyInit =>
    obtain ⟨-, -, -, ⟨-, rfl⟩ | ⟨-, rfl⟩⟩ := execKeyInit_next h
    · exact .keyInit _ (.inr rfl) rfl
    · exact .keyInit _ (.inl rfl) rfl
  case keyTerm => obtain ⟨-, -, rfl⟩ := execKeyTerm_next h; exact .answer _ s.keys.qRd _
  case rdScanline => obtain ⟨-, -, -, rfl⟩ := execRdScanline_next h; exact hostEffect_withHost _
  case rdFrame => obtain ⟨-, -, -, rfl⟩ := execRdFrame_next h; exact hostEffect_withHost _
  case fbWrite => obtain ⟨-, -, -, rfl⟩ := hostWrite_next h; exact .store _ _ _ _ (.inl rfl)
  case fbRead => obtain ⟨-, -, -, v, -, rfl⟩ := hostRead_next h; exact hostEffect_withHost _
  case atWrite => obtain ⟨-, -, -, rfl⟩ := hostWrite_next h; exact .store _ _ _ _ (.inr rfl)
  case atRead => obtain ⟨-, -, -, v, -, rfl⟩ := hostRead_next h; exact hostEffect_withHost _
  all_goals simp [isHostOp, Instr.space] at hi

/-- No host operation touches the configuration, the responder, the link, the inputs, the trace or the schedule. -/
theorem HostEffect.frame (h : HostEffect s i t) :
    t.cfg = s.cfg ∧ t.rsp = s.rsp ∧ t.link = s.link ∧ t.inp = s.inp ∧ t.out = s.out ∧ t.sched = s.sched := by
  cases h with
  | answer | store | display => simp
  | keyInit u hu => obtain rfl | rfl := hu <;> simp

/-- Only DispInit and DispTerm write the display group. -/
theorem HostEffect.video_eq (h : HostEffect s i t) (h1 : ∀ m, i ≠ .dispInit m) (h2 : i ≠ .dispTerm) :
    t.video = s.video := by
  cases h with
  | answer | store => simp
  | display v h hi =>
    obtain ⟨m, rfl⟩ | rfl := hi
    · exact absurd rfl (h1 m)
    · exact absurd rfl h2
  | keyInit u hu => obtain rfl | rfl := hu <;> simp

/-- Only KeyInit writes the key entries, the write offset or the initiator. -/
theorem HostEffect.keys_eq (h : HostEffect s i t) (hi : i ≠ .keyInit) :
    t.keys.ks = s.keys.ks ∧ t.keys.qWr = s.keys.qWr ∧ t.ini = s.ini := by
  cases h with
  | answer | store | display => simp
  | keyInit _ _ e => exact absurd e hi

/-- Only KeyInit writes the queue memory or the memoised table. -/
theorem HostEffect.memRead_eq (h : HostEffect s i t) (hi : i ≠ .keyInit) {sp : Space} (hsp : sp = .qb ∨ sp = .rm)
    (a : Nat) : memRead t sp a = memRead s sp a := by
  cases h with
  | answer | display => obtain rfl | rfl := hsp <;> rfl
  | store sp' b v h hsp' =>
    have hne : sp ≠ sp' := by rintro rfl; obtain rfl | rfl := hsp <;> simp at hsp'
    obtain rfl | rfl := hsp <;> exact memRead_memWrite_other s sp' _ v (.inl hne)
  | keyInit _ _ e => exact absurd e hi

/-- The key entries after a host operation: kept, or all idle after KeyInit. -/
theorem HostEffect.ks_cases (h : HostEffect s i t) :
    t.keys.ks = s.keys.ks ∨ t.keys.ks = List.replicate s.cfg.nkey { rel := 0, rpt := 0 } := by
  cases h with
  | answer | store | display => exact .inl (by simp)
  | keyInit u hu =>
    have hc : u.cfg = s.cfg := by obtain rfl | rfl := hu <;> simp
    exact .inr (by rw [← hc]; rfl)

end

/-! ### What the other operations can do to the keys and to the memory -/

/-- The keys and the memory of `t` are those of `s`, or what one scan step leaves of them. -/
def KeptOrScanned (s t : State) : Prop :=
  (t.keys = s.keys ∧ t.mem = s.mem) ∨
  ∃ u, u.cfg = s.cfg ∧ u.keys = s.keys ∧ u.mem = s.mem ∧ t.keys = (scan u).keys ∧ t.mem = (scan u).mem

theorem KeptOrScanned.of_eq {s s' t : State} (h : KeptOrScanned s' t) (hc : s'.cfg = s.cfg) (hk : s'.keys = s.keys)
    (hm : s'.mem = s.mem) : KeptOrScanned s t := by
  simpa only [KeptOrScanned, hc, hk, hm] using h

/-- A back-porch slot is the scan, or it leaves the keys and the memory alone. -/
theorem backSlot_keptOrScanned (n : Nat) (s : State) : KeptOrScanned s (backSlot n s) := by
  have hslot : KeptOrScanned s (pSlot n s) := by
    unfold pSlot
    split
    case h_4 => exact .inr ⟨s, rfl, rfl, rfl, rfl, rfl⟩
    all_goals exact .inl (by simp)
  unfold backSlot
  split
  · exact .inl ⟨rfl, rfl⟩
  · split
    · exact hslot
    · exact .inl ⟨rfl, rfl⟩
    · exact .inl ⟨rfl, rfl⟩

theorem lineAction_keptOrScanned (c : LineClass) (s : State) : KeptOrScanned s (lineAction c s) := by
  cases c with
  | active | front | vsync => exact .inl (by simp [lineAction])
  | back => exact (backSlot_keptOrScanned _ _).of_eq rfl rfl rfl

section
variable {s t : State} {i : Instr}

/-- An operation that is no host operation keeps the configuration, and reaches the keys and the memory by a scan step only. -/
theorem exec_keptOrScanned (hi : isHostOp i = false) (hw : ∀ w, i ≠ .host w) (h : exec i s = .next t) :
    t.cfg = s.cfg ∧ KeptOrScanned s t := by
  cases i
  case host w => exact absurd rfl (hw w)
  case sync => obtain ⟨-, rfl⟩ := execSync_next h; exact ⟨by simp, .inl (by simp)⟩
  case rowHigh => obtain ⟨-, rfl⟩ := execRowHigh_next h; exact ⟨by simp, .inl (by simp)⟩
  case rowLow => obtain ⟨-, rfl⟩ := execRowLow_next h; exact ⟨by simp, .inl (by simp)⟩
  case syncAck => obtain ⟨-, rfl⟩ := execSyncAck_next h; exact ⟨by simp, .inl (by simp)⟩
  case coldata => obtain rfl | rfl := execColdata_next h <;> exact ⟨by simp, .inl (by simp)⟩
  case tick =>
    obtain ⟨-, -, rfl⟩ := execTick_next h
    refine ⟨by simp, ?_⟩
    have hl : KeptOrScanned s (lineAction (advanceCounters s).lineClass (lineStart s)) :=
      (lineAction_keptOrScanned _ (lineStart s)).of_eq (by simp) (by simp) (by simp)
    simpa only [KeptOrScanned, pollWait_frame] using hl
  case serRead => obtain ⟨-, -, -, rfl⟩ := execSerRead_next h; exact ⟨by simp, .inl (by simp)⟩
  case keyTick => obtain ⟨-, -, rfl⟩ := execKeyTick_next h; exact ⟨by simp, .inr ⟨s, rfl, rfl, rfl, rfl, rfl⟩⟩
  case dlvD2I => obtain ⟨-, _, _, -, rfl⟩ := execDlvD2I_next h; exact ⟨rfl, .inl ⟨rfl, rfl⟩⟩
  case dlvI2D => obtain ⟨-, _, _, -, rfl⟩ := execDlvI2D_next h; exact ⟨rfl, .inl ⟨rfl, rfl⟩⟩
  case dropD2I => obtain ⟨-, _, _, -, rfl⟩ := execDropD2I_next h; exact ⟨rfl, .inl ⟨rfl, rfl⟩⟩
  case dropI2D => obtain ⟨-, _, _, -, rfl⟩ := execDropI2D_next h; exact ⟨rfl, .inl ⟨rfl, rfl⟩⟩
  case garbleD2I => obtain ⟨-, _, _, -, rfl⟩ := execGarbleD2I_next h; exact ⟨rfl, .inl ⟨rfl, rfl⟩⟩
  case garbleI2D => obtain ⟨-, _, _, -, rfl⟩ := execGarbleI2D_next h; exact ⟨rfl, .inl ⟨rfl, rfl⟩⟩
  case rspStep => obtain ⟨-, _, _, -, rfl⟩ := execRspStep_next h; exact ⟨by simp, .inl (by simp)⟩
  case envKeyIn => obtain ⟨-, -, rfl⟩ := execEnvKeyIn_next h; exact ⟨rfl, .inl ⟨rfl, rfl⟩⟩
  case envColIn => obtain ⟨-, rfl⟩ := execEnvColIn_next h; exact ⟨rfl, .inl ⟨rfl, rfl⟩⟩
  case noKey => obtain ⟨-, -, rfl⟩ := execNoKey_next h; exact ⟨rfl, .inl ⟨rfl, rfl⟩⟩
  case lcActive | lcFront | lcVSync | lcBack =>
    obtain ⟨-, -, -, rfl⟩ := lineClassStep_next h
    exact ⟨by simp, lineAction_keptOrScanned _ s⟩
  all_goals simp [isHostOp, Instr.space] at hi

/-- Whatever completes is a host operation's effect, or keeps the configuration and reaches keys and memory by a scan only. -/
theorem exec_cases (h : exec i s = .next t) :
    (isHostOp (effective i) = true ∧ HostEffect s (effective i) t) ∨
    (isHostOp (effective i) = false ∧ t.cfg = s.cfg ∧ KeptOrScanned s t) := by
  obtain ⟨h, hw⟩ := exec_effective h
  cases hi : isHostOp (effective i) with
  | true => exact .inl ⟨rfl, hostEffect_of_exec hi h⟩
  | false => exact .inr ⟨rfl, exec_keptOrScanned hi hw h⟩

end

/-! ### The debouncer -/

/-- What one sample makes of a key's entry (43_key_debouncer.md R213). -/
def KeyState.sampled (c : Cfg) (a : Bool) (k : KeyState) : KeyState :=
  if a then
    if k.rel = 0 then { rel := c.keycntRel, rpt := c.keycntPress }
    else if k.rpt - 1 = 0 then { rel := c.keycntRel, rpt := c.keycntRepeat }
    else { rel := c.keycntRel, rpt := k.rpt - 1 }
  else if k.rel = 0 then k else { k with rel := k.rel - 1 }

theorem setKeyState_self (s : State) (i : Nat) : setKeyState s i (keyState s i) = s := by
  have hks : s.keys.ks.set i (keyState s i) = s.keys.ks := by
    by_cases h : i < s.keys.ks.length
    · simp [keyState, h]
    · exact List.set_eq_of_length_le (Nat.le_of_not_lt h)
  simp only [setKeyState, hks]
  rfl

/-- DEBOUNCE_KEY replaces the entry of its key, then queues the key's code where the sample is a press event (R213). -/
theorem debounceKey_eq (i : Nat) (a : Bool) (s : State) :
    debounceKey i a s =
      if pressEvent (keyState s i) a then
        qPush (setKeyState s i ((keyState s i).sampled s.cfg a)) (keyCode i)
      else setKeyState s i ((keyState s i).sampled s.cfg a) := by
  cases a with
  | true =>
    have hrpt : (keyState s i).rpt - 1#8 = 0#8 ↔ (keyState s i).rpt = 1#8 := by bv_omega
    by_cases h0 : (keyState s i).rel = 0#8
    · simp [debounceKey, debounceOn, KeyState.sampled, pressEvent, h0]
    · by_cases h1 : (keyState s i).rpt = 1#8 <;>
        simp [debounceKey, debounceOn, KeyState.sampled, pressEvent, h0, hrpt, h1]
  | false =>
    by_cases h0 : (keyState s i).rel = 0#8
    · simp [debounceKey, debounceOff, KeyState.sampled, pressEvent, h0, setKeyState_self]
    · simp [debounceKey, debounceOff, KeyState.sampled, pressEvent, h0]

theorem debounceKey_ks (i : Nat) (a : Bool) (s : State) :
    (debounceKey i a s).keys.ks = s.keys.ks.set i ((keyState s i).sampled s.cfg a) := by
  rw [debounceKey_eq]
  split <;> simp

/-- The session a display chip closes at the end of a scan step touches neither the keys nor the memory. -/
theorem scan_keys_mem (s : State) :
    (scan s).keys = (debounceFrom 0 (rawVector s) s).keys ∧ (scan s).mem = (debounceFrom 0 (rawVector s) s).mem := by
  unfold scan
  dsimp only
  split <;> simp

/-! A scan step writes the queue memory and no other space. -/

theorem qPush_memRead (s : State) (c : Byte) {sp : Space} (hsp : sp ≠ .qb) (a : Nat) :
    memRead (qPush s c) sp a = memRead s sp a := by
  obtain ⟨-, e⟩ | ⟨-, e⟩ := qPush_cases s c <;> rw [e]
  calc memRead ((memWrite s .qb s.keys.qWr c).withKeys _) sp a
      = memRead (memWrite s .qb s.keys.qWr c) sp a := memRead_congr sp a rfl fun _ => rfl
    _ = memRead s sp a := memRead_memWrite_other s .qb sp c (.inl hsp)

theorem debounceKey_memRead (i : Nat) (b : Bool) (s : State) {sp : Space} (hsp : sp ≠ .qb) (a : Nat) :
    memRead (debounceKey i b s) sp a = memRead s sp a := by
  have hset (k : KeyState) : memRead (setKeyState s i k) sp a = memRead s sp a := memRead_congr sp a rfl fun _ => rfl
  rw [debounceKey_eq]
  split
  · rw [qPush_memRead _ _ hsp, hset]
  · exact hset _

theorem debounceFrom_memRead (i : Nat) (l : List Bool) (s : State) {sp : Space} (hsp : sp ≠ .qb) (a : Nat) :
    memRead (debounceFrom i l s) sp a = memRead s sp a := by
  induction l generalizing i s with
  | nil => rfl
  | cons b l ih => rw [debounceFrom, ih, debounceKey_memRead i b s hsp]

theorem scan_memRead (s : State) {sp : Space} (hsp : sp ≠ .qb) (a : Nat) :
    memRead (scan s) sp a = memRead s sp a :=
  calc memRead (scan s) sp a
      = memRead (debounceFrom 0 (rawVector s) s) sp a :=
        memRead_congr sp a (scan_keys_mem s).2 fun _ => by simp [State.profile]
    _ = memRead s sp a := debounceFrom_memRead 0 (rawVector s) s hsp a

theorem KeptOrScanned.memRead_rm {s t : State} (h : KeptOrScanned s t) (a : Nat) :
    memRead t .rm a = memRead s .rm a := by
  obtain ⟨-, hm⟩ | ⟨u, -, -, hu, -, hm⟩ := h
  · exact memRead_congr .rm a hm (by simp)
  · calc memRead t .rm a
        = memRead (scan u) .rm a := memRead_congr .rm a hm (by simp)
      _ = memRead u .rm a := scan_memRead u (by decide) a
      _ = memRead s .rm a := memRead_congr .rm a hu (by simp)

/-! ### The ranges of the debounce counters -/

/-- An entry is in its ranges, and a pressed key's repeat counter is not 0 (10_state.md R28; 43_key_debouncer.md R213). -/
def KeyState.InRange (c : Cfg) (k : KeyState) : Prop :=
  k.rel.toNat ≤ c.keycntRel.toNat ∧ k.rpt.toNat ≤ max c.keycntPress.toNat c.keycntRepeat.toNat ∧ (k.rel ≠ 0 → k.rpt ≠ 0)

theorem debounceInv_iff (s : State) :
    DebounceInv s ↔ s.cfg.legal = true ∧ s.keys.ks.length = s.cfg.nkey ∧ ∀ k ∈ s.keys.ks, k.InRange s.cfg := Iff.rfl

theorem DebounceInv.congr {s t : State} (h : DebounceInv s) (hc : t.cfg = s.cfg) (hk : t.keys.ks = s.keys.ks) :
    DebounceInv t := by
  simpa only [debounceInv_iff, hc, hk] using h

theorem KeyState.inRange_idle (c : Cfg) : KeyState.InRange c { rel := 0, rpt := 0 } := by simp [KeyState.InRange]

/-- A sample keeps an entry in its ranges: the reload values of a legal configuration are not 0, and the repeat counter is
lowered only from 2 or more. -/
theorem KeyState.InRange.sampled {c : Cfg} {k : KeyState} (hc : c.legal = true) (hk : k.InRange c) (a : Bool) :
    (k.sampled c a).InRange c := by
  obtain ⟨hrel, hrpt, hpos⟩ := hk
  obtain ⟨hpress, hrep⟩ : c.keycntPress ≠ 0 ∧ c.keycntRepeat ≠ 0 := by
    simp only [Cfg.legal, Bool.and_eq_true, bne_iff_ne] at hc
    tauto
  cases a with
  | true =>
    simp only [KeyState.sampled, if_true]
    split
    · exact ⟨le_rfl, le_max_left _ _, fun _ => hpress⟩
    · next hk0 =>
      split
      · exact ⟨le_rfl, le_max_right _ _, fun _ => hrep⟩
      · next h1 =>
        have hlow : (k.rpt - 1).toNat ≤ k.rpt.toNat := by have := hpos hk0; bv_omega
        exact ⟨le_rfl, hlow.trans hrpt, fun _ => h1⟩
  | false =>
    simp only [KeyState.sampled, Bool.false_eq_true, if_false]
    split
    · exact ⟨hrel, hrpt, hpos⟩
    · next hk0 =>
      have hlow : (k.rel - 1).toNat ≤ k.rel.toNat := by bv_omega
      exact ⟨hlow.trans hrel, hrpt, fun _ => hpos hk0⟩

/-- The entry of a key is one of the entries, or idle where there is no such key. -/
theorem keyState_cases (s : State) (i : Nat) : keyState s i ∈ s.keys.ks ∨ keyState s i = { rel := 0, rpt := 0 } := by
  unfold keyState
  by_cases h : i < s.keys.ks.length
  · exact .inl (by simp [h])
  · exact .inr (by simp [h])

theorem debounceKey_debounceInv (i : Nat) (a : Bool) {s : State} (h : DebounceInv s) : DebounceInv (debounceKey i a s) := by
  obtain ⟨hc, hl, hk⟩ := (debounceInv_iff s).mp h
  have hi : (keyState s i).InRange s.cfg := by
    obtain hm | e := keyState_cases s i
    · exact hk _ hm
    · exact e ▸ KeyState.inRange_idle _
  rw [debounceInv_iff, (debounceKey_frame i a s).1]
  refine ⟨hc, by simpa using hl, fun k hm => ?_⟩
  rw [debounceKey_ks] at hm
  obtain hm | rfl := List.mem_or_eq_of_mem_set hm
  · exact hk k hm
  · exact hi.sampled hc a

theorem debounceFrom_debounceInv (i : Nat) (l : List Bool) {s : State} (h : DebounceInv s) :
    DebounceInv (debounceFrom i l s) := by
  induction l generalizing i s with
  | nil => exact h
  | cons a l ih => exact ih (i + 1) (debounceKey_debounceInv i a h)

theorem scan_debounceInv {s : State} (h : DebounceInv s) : DebounceInv (scan s) :=
  (debounceFrom_debounceInv 0 (rawVector s) h).congr (by simp) (by rw [(scan_keys_mem s).1])

theorem KeptOrScanned.debounceInv {s t : State} (h : KeptOrScanned s t) (hc : t.cfg = s.cfg) (hs : DebounceInv s) :
    DebounceInv t := by
  obtain ⟨hk, -⟩ | ⟨u, huc, huk, -, hk, -⟩ := h
  · exact hs.congr hc (by rw [hk])
  · have hu : DebounceInv u := hs.congr huc (by rw [huk])
    exact (scan_debounceInv hu).congr (by simp [hc, huc]) (by rw [hk])

theorem HostEffect.debounceInv {s t : State} {i : Instr} (h : HostEffect s i t) (hs : DebounceInv s) :
    DebounceInv t := by
  have hc := h.frame.1
  obtain hk | hk := h.ks_cases
  · exact hs.congr hc hk
  · rw [debounceInv_iff, hc, hk]
    refine ⟨hs.1, by simp, fun k hm => ?_⟩
    rw [List.eq_of_mem_replicate hm]
    exact KeyState.inRange_idle _

theorem exec_debounceInv {i : Instr} {s t : State} (h : exec i s = .next t) (hs : DebounceInv s) : DebounceInv t := by
  obtain ⟨-, he⟩ | ⟨-, hc, hk⟩ := exec_cases h
  · exact he.debounceInv hs
  · exact hk.debounceInv hc hs

/-! ### The counters over a frame -/

/-- A legal profile has lines that 16 bits can count (00_scope.md R7). -/
theorem ConfigOk.vTotal_le {s : State} (h : ConfigOk s) : s.profile.vTotal ≤ 65535 := by
  obtain ⟨hc, hm⟩ := h
  have hp : s.profile ∈ s.cfg.profiles := by simp [State.profile, profileAt, hm]
  have hall : s.cfg.profiles.all VideoProfile.legal = true := by
    simp only [Cfg.legal, Bool.and_eq_true] at hc
    tauto
  have hl := List.all_eq_true.mp hall _ hp
  simp only [VideoProfile.legal, Bool.and_eq_true, decide_eq_true_eq] at hl
  tauto

theorem hasDisplay_of_displayRuns {s : State} (h : DisplayRuns s) : hasDisplay s = true := by
  simpa [hasDisplay] using h.1

/-- SL counts modulo V_TOTAL (R122). -/
theorem advanceCounters_sl_toNat {s : State} (hV : s.profile.vTotal ≤ 65535) (hsl : s.video.sl.toNat < s.profile.vTotal) :
    (advanceCounters s).video.sl.toNat = (s.video.sl.toNat + 1) % s.profile.vTotal := by
  unfold advanceCounters
  split
  · next e =>
    have e : s.video.sl.toNat + 1 = s.profile.vTotal := by omega
    simp [e]
  · next e =>
    rw [Nat.mod_eq_of_lt (by omega)]
    simp only [State.withVideo_video]
    bv_omega

/-- FR counts the wraps of SL (R122). -/
theorem advanceCounters_fr {s : State} (hsl : s.video.sl.toNat < s.profile.vTotal) :
    (advanceCounters s).video.fr = s.video.fr + BitVec.ofNat 32 ((s.video.sl.toNat + 1) / s.profile.vTotal) := by
  unfold advanceCounters
  split
  · next e =>
    have e : s.video.sl.toNat + 1 = s.profile.vTotal := by omega
    simp [e, Nat.div_self (show 0 < s.profile.vTotal by omega)]
  · next e => simp [Nat.div_eq_of_lt (show s.video.sl.toNat + 1 < s.profile.vTotal by omega)]

/-- What TICK makes of the counters; the display still runs, in the same profile. -/
theorem exec_tick_counters {s : State} (h : DisplayRuns s) :
    ∃ t, exec .tick s = .next t ∧ DisplayRuns t ∧ t.profile = s.profile ∧
      t.video.sl = (advanceCounters s).video.sl ∧ t.video.fr = (advanceCounters s).video.fr := by
  refine ⟨_, execTick_eq (hasDisplay_of_displayRuns h) h.2, ⟨?_, ?_⟩, ?_, ?_, ?_⟩
  · simpa using h.1
  · simpa using h.2
  · simp [State.profile]
  · simp
  · simp

theorem add_div_eq_div_add (a n : Nat) {k : Nat} (hk : 0 < k) : (a + n) / k = a / k + (a % k + n) / k := by
  rw [← Nat.mul_add_div hk, ← Nat.add_assoc, Nat.div_add_mod]

/-- Any number of ticks: SL and FR are the remainder and the quotient of the lines counted since line 0 of the frame. -/
theorem runAll_ticks (n : Nat) {s : State} (hrun : DisplayRuns s) (hV : s.profile.vTotal ≤ 65535)
    (hsl : s.video.sl.toNat < s.profile.vTotal) :
    ∃ t, runAll (List.replicate n .tick) s = .next t ∧
      t.video.sl.toNat = (s.video.sl.toNat + n) % s.profile.vTotal ∧
      t.video.fr = s.video.fr + BitVec.ofNat 32 ((s.video.sl.toNat + n) / s.profile.vTotal) := by
  induction n generalizing s with
  | zero => exact ⟨s, rfl, by simp [Nat.mod_eq_of_lt hsl], by simp [Nat.div_eq_of_lt hsl]⟩
  | succ n ih =>
    obtain ⟨u, hu, hurun, hup, husl, hufr⟩ := exec_tick_counters hrun
    rw [advanceCounters_fr hsl] at hufr
    have husl : u.video.sl.toNat = (s.video.sl.toNat + 1) % s.profile.vTotal := by
      rw [husl, advanceCounters_sl_toNat hV hsl]
    obtain ⟨t, ht, htsl, htfr⟩ := ih hurun (hup ▸ hV) (by rw [hup, husl]; exact Nat.mod_lt _ (by omega))
    rw [hup, husl] at htsl htfr
    refine ⟨t, by simpa only [List.replicate_succ, runAll, hu] using ht, ?_, ?_⟩
    · rw [htsl, Nat.mod_add_mod, Nat.add_right_comm, Nat.add_assoc]
    · have hdiv := add_div_eq_div_add (s.video.sl.toNat + 1) n (show 0 < s.profile.vTotal by omega)
      rw [Nat.add_right_comm, Nat.add_assoc] at hdiv
      rw [htfr, hufr, hdiv, BitVec.ofNat_add, BitVec.add_assoc]

end Sys2Proof.Machine

/-! ### The statements -/

section
open Sys2Proof Sys2Proof.Machine

/-- Settles O24: each guard of the two meanings is the statement's premise. -/
theorem environmentSetsInputs : Obligations.EnvironmentSetsInputs := by
  intro s index value v
  refine ⟨fun hrole hidx => ?_, fun hrole => ?_⟩
  · show execEnvKeyIn index value s = _
    simp [execEnvKeyIn, hrole, Nat.not_le.mpr hidx, State.withInp]
  · show execEnvColIn v s = _
    simp [execEnvColIn, linkStep, hasLink, hrole, State.withInp]

/-- Settles O46: a host operation keeps the configuration and, but for KeyInit, RM; the others reach the memory by scan steps,
which write the queue memory only. -/
theorem configurationNeverChanges : Obligations.ConfigurationNeverChanges := by
  intro i s t h
  obtain ⟨-, he⟩ | ⟨-, hc, hk⟩ := exec_cases h
  · exact ⟨he.frame.1, fun b hb => by_contra fun hi => hb (he.memRead_eq hi (.inr rfl) b)⟩
  · exact ⟨hc, fun b hb => absurd (hk.memRead_rm b) hb⟩

/-- Settles O49, from the forms a host operation's next state can have. -/
theorem hostLeavesInterruptOwnedState : Obligations.HostLeavesInterruptOwnedState := by
  intro i s t hi h
  have he : HostEffect s (effective i) t := hostEffect_of_exec hi (exec_effective h).1
  obtain ⟨-, hrsp, hlink, hinp, hout, hsched⟩ := he.frame
  refine ⟨he.video_eq, fun hne => ?_, hrsp, hlink, hinp, hout, hsched⟩
  obtain ⟨hks, hwr, hini⟩ := he.keys_eq hne
  exact ⟨hks, hwr, hini, he.memRead_eq hne (.inl rfl), he.memRead_eq hne (.inr rfl)⟩

/-- Settles O42: `V_TOTAL` more lines leave the remainder of the lines counted and add 1 to the quotient. -/
theorem frameAdvanceLaw : Obligations.FrameAdvanceLaw := by
  intro s ⟨hcfg, hsl, _⟩ hrun
  obtain ⟨t, ht, htsl, htfr⟩ := runAll_ticks s.profile.vTotal hrun hcfg.vTotal_le hsl
  refine ⟨t, ht, BitVec.eq_of_toNat_eq ?_, ?_⟩
  · rw [htsl, Nat.add_mod_right, Nat.mod_eq_of_lt hsl]
  · rw [htfr, Nat.add_div_right _ (by omega), Nat.div_eq_of_lt hsl]
    rfl

/-- Settles O55: fetching moves the script only, and every operation keeps the ranges. -/
theorem stepKeepsTheDebounceRanges : Obligations.StepKeepsTheDebounceRanges := by
  intro s t hs h
  obtain ⟨i, rest, -, h⟩ := step_next h
  exact exec_debounceInv h (hs.congr (by simp) (by simp))

end
end

section
/-! PROOF. The statements about the memory spaces: the canonical form of the four lists, the serialiser's offsets inside FB, AT
and FN, and the memoised remap table. -/

namespace Sys2Proof.Machine

open Sys2Proof

/-! ### The canonical form of memory -/

theorem HostEffect.mem_wf {s t : State} {i : Instr} (h : HostEffect s i t) (hs : s.mem.wf = true) : t.mem.wf = true := by
  cases h with
  | answer | display => exact hs
  | store sp a v => exact memWrite_wf s sp a v hs
  | keyInit u hu =>
    obtain rfl | rfl := hu
    · exact hs
    · exact keyInitProtocol_mem_wf s hs

theorem KeptOrScanned.mem_wf {s t : State} (h : KeptOrScanned s t) (hs : s.mem.wf = true) : t.mem.wf = true := by
  obtain ⟨-, hm⟩ | ⟨u, -, -, hu, -, hm⟩ := h
  · exact hm ▸ hs
  · exact hm ▸ scan_mem_wf u (hu ▸ hs)

theorem exec_mem_wf {i : Instr} {s t : State} (h : exec i s = .next t) (hs : s.mem.wf = true) : t.mem.wf = true := by
  obtain ⟨-, he⟩ | ⟨-, -, hk⟩ := exec_cases h
  · exact he.mem_wf hs
  · exact hk.mem_wf hs

/-! ### What the operations outside the host can do to the display group -/

/-- The display groups an operation outside the host can leave: kept, that of a line's action on the state as it is or at the
start of the next line, or that of one SER_READ (40_clock_serializer_renderer.md R121, R127; 30_encoding.md R101). -/
inductive VideoEffect (s : State) : Video → Prop where
  | kept : VideoEffect s s.video
  | line (u : State) (hu : u = s ∨ u = lineStart s) (hd : s.video.dispEn = true) :
      VideoEffect s (lineAction u.lineClass u).video
  | read : VideoEffect s (serReadByte s).video

/-- The records of which Init has run are those of `s` (45_host_api.md R263; log 9). -/
def ReadyKept (s t : State) : Prop := t.host.dispReady = s.host.dispReady ∧ t.host.keyReady = s.host.keyReady

theorem ReadyKept.of_host {s t : State} (h : t.host = s.host) : ReadyKept s t := by simp [ReadyKept, h]

theorem VideoEffect.dispEn_eq {s : State} {v : Video} (h : VideoEffect s v) : v.dispEn = s.video.dispEn := by
  cases h with
  | kept => rfl
  | line u hu => obtain rfl | rfl := hu <;> simp
  | read => simp [serReadByte_video]

section
variable {s t : State} {i : Instr}

/-- An operation on the link, the inputs or the keys keeps the display group and the host's side. -/
theorem videoEffect_of_frame (hv : t.video = s.video) (hh : t.host = s.host) :
    VideoEffect s t.video ∧ ReadyKept s t := ⟨hv ▸ .kept, .of_host hh⟩

/-- An operation that is no host operation leaves one of these display groups, and records no Init. -/
theorem exec_videoEffect (hi : isHostOp i = false) (hw : ∀ w, i ≠ .host w) (h : exec i s = .next t) :
    VideoEffect s t.video ∧ ReadyKept s t := by
  cases i
  case host w => exact absurd rfl (hw w)
  case sync => obtain ⟨-, rfl⟩ := execSync_next h; exact videoEffect_of_frame (by simp) (by simp)
  case rowHigh => obtain ⟨-, rfl⟩ := execRowHigh_next h; exact videoEffect_of_frame (by simp) (by simp)
  case rowLow => obtain ⟨-, rfl⟩ := execRowLow_next h; exact videoEffect_of_frame (by simp) (by simp)
  case syncAck => obtain ⟨-, rfl⟩ := execSyncAck_next h; exact videoEffect_of_frame (by simp) (by simp)
  case coldata => obtain rfl | rfl := execColdata_next h <;> exact videoEffect_of_frame (by simp) (by simp)
  case tick =>
    obtain ⟨-, hd, rfl⟩ := execTick_next h
    exact ⟨by simpa using VideoEffect.line (lineStart s) (.inr rfl) hd, by simp [ReadyKept, pollWait_host]⟩
  case serRead => obtain ⟨-, -, -, rfl⟩ := execSerRead_next h; exact ⟨.read, .of_host (by simp)⟩
  case keyTick => obtain ⟨-, -, rfl⟩ := execKeyTick_next h; exact videoEffect_of_frame (by simp) (by simp)
  case dlvD2I => obtain ⟨-, _, _, -, rfl⟩ := execDlvD2I_next h; exact videoEffect_of_frame rfl rfl
  case dlvI2D => obtain ⟨-, _, _, -, rfl⟩ := execDlvI2D_next h; exact videoEffect_of_frame rfl rfl
  case dropD2I => obtain ⟨-, _, _, -, rfl⟩ := execDropD2I_next h; exact videoEffect_of_frame rfl rfl
  case dropI2D => obtain ⟨-, _, _, -, rfl⟩ := execDropI2D_next h; exact videoEffect_of_frame rfl rfl
  case garbleD2I => obtain ⟨-, _, _, -, rfl⟩ := execGarbleD2I_next h; exact videoEffect_of_frame rfl rfl
  case garbleI2D => obtain ⟨-, _, _, -, rfl⟩ := execGarbleI2D_next h; exact videoEffect_of_frame rfl rfl
  case rspStep => obtain ⟨-, _, _, -, rfl⟩ := execRspStep_next h; exact videoEffect_of_frame (by simp) (by simp)
  case envKeyIn => obtain ⟨-, -, rfl⟩ := execEnvKeyIn_next h; exact videoEffect_of_frame rfl rfl
  case envColIn => obtain ⟨-, rfl⟩ := execEnvColIn_next h; exact videoEffect_of_frame rfl rfl
  case noKey => obtain ⟨-, -, rfl⟩ := execNoKey_next h; exact ⟨.kept, rfl, rfl⟩
  case lcActive | lcFront | lcVSync | lcBack =>
    obtain ⟨-, hd, hc, rfl⟩ := lineClassStep_next h
    exact ⟨hc ▸ .line s (.inl rfl) hd, .of_host (by simp)⟩
  all_goals simp [isHostOp, Instr.space] at hi

end

/-! ### The serialiser's offsets -/

/-- A byte of the row in `r` is left to read, and every offset the row can still form lies inside FB, AT and FN. -/
def RowInside (p : VideoProfile) (r : Serialiser) : Prop :=
  r.idx < r.len ∧ r.base + r.len ≤ p.fbSize ∧
  (p.layout = .attr → r.abase + (r.len - 1) / p.cellW < p.atSize) ∧ (p.layout = .text → r.gl < p.charH)

theorem serialiserInv_iff (s : State) :
    SerialiserInv s ↔
      ConfigOk s ∧ (s.video.ser.busy = true → s.video.dispEn = true ∧ RowInside s.profile s.video.ser) := Iff.rfl

theorem ConfigOk.congr {s t : State} (h : ConfigOk s) (hc : t.cfg = s.cfg) (hm : t.video.mode = s.video.mode) :
    ConfigOk t := by
  simpa only [ConfigOk, hc, hm] using h

/-- The invariant sees the configuration and the display group. -/
theorem SerialiserInv.congr {s t : State} (h : SerialiserInv s) (hc : t.cfg = s.cfg) (hv : t.video = s.video) :
    SerialiserInv t := by
  simpa only [SerialiserInv, ConfigOk, State.profile, hc, hv] using h

/-- The invariant asks nothing of an idle serialiser. -/
theorem serialiserInv_of_idle {s : State} (hc : ConfigOk s) (hb : s.video.ser.busy = false) : SerialiserInv s :=
  ⟨hc, fun h => absurd h (by simp [hb])⟩

theorem ConfigOk.profile_legal {s : State} (h : ConfigOk s) : s.profile.legal = true := by
  obtain ⟨hc, hm⟩ := h
  have hp : s.profile ∈ s.cfg.profiles := by simp [State.profile, profileAt, hm]
  have hall : s.cfg.profiles.all VideoProfile.legal = true := by
    simp only [Cfg.legal, Bool.and_eq_true] at hc
    tauto
  exact List.all_eq_true.mp hall _ hp

section
variable {p : VideoProfile}

/-! What a legal profile says of its buffers (00_scope.md R7; 20_memory.md R60). -/

theorem fbSize_of_legal (h : p.legal = true) :
    p.fbSize = p.fbPitch * p.fbRows ∧ 0 < p.fbPitch ∧ 0 < p.lpr := by
  simp only [VideoProfile.legal, Bool.and_eq_true, decide_eq_true_eq, beq_iff_eq] at h
  tauto

theorem atSize_of_legal (h : p.legal = true) (hl : p.layout = .attr) :
    p.atSize = p.atPitch * p.atRows ∧ 0 < p.lpar ∧ 0 < p.cellW ∧ p.fbRows * p.lpr ≤ p.atRows * p.lpar ∧
    p.fbPitch ≤ p.atPitch * p.cellW := by
  simp only [VideoProfile.legal, hl, Bool.and_eq_true, decide_eq_true_eq, beq_iff_eq] at h
  tauto

theorem charH_of_legal (h : p.legal = true) (hl : p.layout = .text) :
    0 < p.charH ∧ 0 < p.lpg ∧ p.lpr = p.charH * p.lpg := by
  simp only [VideoProfile.legal, hl, Bool.and_eq_true, decide_eq_true_eq, beq_iff_eq] at h
  tauto

/-- The frame buffer row of a line that has one lies inside FB. -/
theorem fbRow_inside (h : p.legal = true) {l : Nat} (hr : rowFn p l < p.fbRows) :
    rowFn p l * p.fbPitch + p.fbPitch ≤ p.fbSize := by
  obtain ⟨hfb, -, -⟩ := fbSize_of_legal h
  calc rowFn p l * p.fbPitch + p.fbPitch
      = p.fbPitch * (rowFn p l + 1) := by ring
    _ ≤ p.fbPitch * p.fbRows := Nat.mul_le_mul_left _ hr
    _ = p.fbSize := hfb.symm

/-- The cell that covers the last byte of such a row lies inside AT: the line has a row in AT, and that row's cells cover the
frame buffer row. -/
theorem atRow_inside (h : p.legal = true) (hl : p.layout = .attr) {l : Nat} (hr : rowFn p l < p.fbRows) :
    arowFn p l * p.atPitch + (p.fbPitch - 1) / p.cellW < p.atSize := by
  obtain ⟨-, hpos, hlpr⟩ := fbSize_of_legal h
  obtain ⟨hat, hlpar, hcell, hrows, hpitch⟩ := atSize_of_legal h hl
  have hline : l < p.fbRows * p.lpr := (Nat.div_lt_iff_lt_mul hlpr).mp hr
  have hrow : arowFn p l < p.atRows := (Nat.div_lt_iff_lt_mul hlpar).mpr (hline.trans_le hrows)
  have hcol : (p.fbPitch - 1) / p.cellW < p.atPitch := (Nat.div_lt_iff_lt_mul hcell).mpr (by omega)
  calc arowFn p l * p.atPitch + (p.fbPitch - 1) / p.cellW
      < arowFn p l * p.atPitch + p.atPitch := Nat.add_lt_add_left hcol _
    _ = p.atPitch * (arowFn p l + 1) := by ring
    _ ≤ p.atPitch * p.atRows := Nat.mul_le_mul_left _ hrow
    _ = p.atSize := hat.symm

/-- A line's glyph line is one of the character's. -/
theorem glFn_lt (h : p.legal = true) (hl : p.layout = .text) (l : Nat) : glFn p l < p.charH := by
  obtain ⟨-, -, hlpr⟩ := fbSize_of_legal h
  obtain ⟨-, hlpg, he⟩ := charH_of_legal h hl
  exact (Nat.div_lt_iff_lt_mul hlpg).mpr (he ▸ Nat.mod_lt l hlpr)

theorem rowInside_armSerialiser (h : p.legal = true) {l : BitVec 16} (hr : rowFn p l.toNat < p.fbRows) (r : Serialiser) :
    RowInside p (armSerialiser p l r) := by
  refine ⟨(fbSize_of_legal h).2.1, fbRow_inside h hr, fun hl => ?_, fun hl => ?_⟩
  · simpa [armSerialiser, hl] using atRow_inside h hl hr
  · simpa [armSerialiser, hl] using glFn_lt h hl l.toNat

/-- The row stays inside as long as a byte is left. -/
theorem RowInside.next {r : Serialiser} (h : RowInside p r) (hne : r.idx + 1 ≠ r.len) (b : Bool) :
    RowInside p { r with idx := r.idx + 1, busy := b } := by
  obtain ⟨hidx, hrest⟩ := h
  exact ⟨show r.idx + 1 < r.len by omega, hrest⟩

end

/-- The serialiser is busy after a byte when it was busy before it and this was not the last. -/
theorem busyFlag_eq_true {r : Serialiser} {n : Nat} : busyFlag r n = true ↔ n ≠ r.len ∧ r.busy = true := by
  unfold busyFlag
  split <;> simp_all

theorem serReadByte_serialiserInv {s : State} (h : SerialiserInv s) : SerialiserInv (serReadByte s) := by
  obtain ⟨hc, hs⟩ := (serialiserInv_iff s).mp h
  have hp : (serReadByte s).profile = s.profile := by simp [State.profile, serReadByte_video]
  rw [serialiserInv_iff, hp, serReadByte_video]
  refine ⟨hc.congr (by simp) (by simp [serReadByte_video]), fun hb => ?_⟩
  obtain ⟨hne, hb⟩ := busyFlag_eq_true.mp hb
  exact ⟨(hs hb).1, (hs hb).2.next hne _⟩

theorem serReadRow_serialiserInv (n : Nat) {s : State} (h : SerialiserInv s) : SerialiserInv (serReadRow n s) := by
  induction n generalizing s with
  | zero => exact h
  | succ n ih => exact ih (serReadByte_serialiserInv h)

/-- RENDER arms a row that lies inside; a bit-banged serialiser then reads it. -/
theorem render_serialiserInv {s : State} (h : SerialiserInv s) (hd : s.video.dispEn = true) : SerialiserInv (render s) := by
  unfold render
  dsimp only
  split
  · next hr =>
    have harm : SerialiserInv
        (s.withVideo { s.video with ser := armSerialiser s.profile s.video.sl s.video.ser }) :=
      (serialiserInv_iff _).mpr ⟨h.1, fun _ => ⟨hd, rowInside_armSerialiser h.1.profile_legal hr _⟩⟩
    split
    · exact harm
    · exact serReadRow_serialiserInv _ harm
  · exact h

theorem lineAction_serialiserInv (c : LineClass) {s : State} (h : SerialiserInv s) (hd : s.video.dispEn = true) :
    SerialiserInv (lineAction c s) := by
  have hstart (e : TraceEvent) : SerialiserInv (emit (s.withVideo { s.video with vsyncOut := vsyncFlag c }) e) := h
  cases c with
  | active => exact render_serialiserInv (hstart _) hd
  | front | vsync => exact hstart _
  | back => exact (hstart _).congr (backSlot_frame _ _).1 (backSlot_frame _ _).2.1

/-- The start of a line gives up what was left of a row (R132). -/
theorem lineStart_serialiserInv {s : State} (h : SerialiserInv s) : SerialiserInv (lineStart s) :=
  serialiserInv_of_idle (h.1.congr (by simp) (by simp)) (by simp)

theorem VideoEffect.serialiserInv {s t : State} (h : VideoEffect s t.video) (hc : t.cfg = s.cfg) (hs : SerialiserInv s) :
    SerialiserInv t := by
  generalize hv : t.video = v at h
  cases h with
  | kept => exact hs.congr hc hv
  | line u hu hd =>
    have hinv : SerialiserInv (lineAction u.lineClass u) := by
      obtain rfl | rfl := hu
      · exact lineAction_serialiserInv _ hs hd
      · exact lineAction_serialiserInv _ (lineStart_serialiserInv hs) (by simpa using hd)
    have hcu : u.cfg = s.cfg := by obtain rfl | rfl := hu <;> simp
    exact hinv.congr (by simp [hc, hcu]) hv
  | read => exact (serReadByte_serialiserInv hs).congr (by simp [hc]) hv

/-- DispInit and DispTerm leave the serialiser idle, and no other host operation touches the display group. -/
theorem exec_host_serialiserInv {i : Instr} {s t : State} (hi : isHostOp i = true) (h : exec i s = .next t)
    (hs : SerialiserInv s) : SerialiserInv t := by
  by_cases h1 : ∃ m, i = .dispInit m
  · obtain ⟨m, rfl⟩ := h1
    obtain ⟨-, -, -, hm, rfl⟩ := execDispInit_next h
    exact serialiserInv_of_idle ⟨hs.1.1, hm⟩ rfl
  · by_cases h2 : i = .dispTerm
    · subst h2
      obtain ⟨-, -, rfl⟩ := execDispTerm_next h
      exact serialiserInv_of_idle hs.1 rfl
    · have he := hostEffect_of_exec hi h
      exact hs.congr he.frame.1 (he.video_eq (fun m e => h1 ⟨m, e⟩) h2)

theorem exec_serialiserInv {i : Instr} {s t : State} (h : exec i s = .next t) (hs : SerialiserInv s) :
    SerialiserInv t := by
  have hc := (configurationNeverChanges i s t h).1
  obtain ⟨h, hw⟩ := exec_effective h
  cases hi : isHostOp (effective i) with
  | true => exact exec_host_serialiserInv hi h hs
  | false => exact (exec_videoEffect hi hw h).1.serialiserInv hc hs

/-! ### The enables and the memoised table -/

/-- The records of which Init has run are kept, and no enable has risen. -/
def EnablesKept (s t : State) : Prop :=
  ReadyKept s t ∧ (t.video.dispEn = true → s.video.dispEn = true) ∧ (t.keys.keyEn = true → s.keys.keyEn = true)

section
variable {s t : State} {i : Instr}

theorem enablesKept_giveResult (r : HostResult) : EnablesKept s (giveResult s r) := ⟨⟨rfl, rfl⟩, id, id⟩

theorem enablesKept_popKey (h : popKey s = .next t) : EnablesKept s t := by
  obtain ⟨-, rfl⟩ | ⟨c, -, -, rfl⟩ := popKey_next h
  · exact enablesKept_giveResult _
  · exact ⟨⟨rfl, rfl⟩, id, id⟩

theorem enablesKept_store (sp : Space) (a : Nat) (v : Byte) (r : HostResult) :
    EnablesKept s (giveResult (memWrite s sp a v) r) := by
  simp [EnablesKept, ReadyKept]

/-- Of the host operations only DispInit and KeyInit raise an enable or record an Init. -/
theorem exec_host_enablesKept (hi : isHostOp i = true) (hd : ∀ m, i ≠ .dispInit m) (hk : i ≠ .keyInit)
    (h : exec i s = .next t) : EnablesKept s t := by
  cases i
  case dispInit m => exact absurd rfl (hd m)
  case keyInit => exact absurd rfl hk
  case keyGet => obtain ⟨-, -, -, h⟩ := execKeyGet_next h; exact enablesKept_popKey h
  case joyGet => obtain ⟨-, -, -, h⟩ := execJoyGet_next h; exact enablesKept_popKey h
  case keyPressed => obtain ⟨-, -, -, rfl⟩ := execKeyPressed_next h; exact enablesKept_giveResult _
  case keyFlush => obtain ⟨-, -, -, rfl⟩ := execKeyFlush_next h; exact ⟨⟨rfl, rfl⟩, id, id⟩
  case waitVSync => obtain ⟨-, -, rfl⟩ := execWaitVSync_next h; simp [EnablesKept, ReadyKept, pollWait_host]
  case dispIsVSync => obtain ⟨-, -, -, rfl⟩ := execDispIsVSync_next h; exact enablesKept_giveResult _
  case dispTerm => obtain ⟨-, -, rfl⟩ := execDispTerm_next h; simp [EnablesKept, ReadyKept]
  case keyTerm => obtain ⟨-, -, rfl⟩ := execKeyTerm_next h; simp [EnablesKept, ReadyKept]
  case rdScanline => obtain ⟨-, -, -, rfl⟩ := execRdScanline_next h; exact enablesKept_giveResult _
  case rdFrame => obtain ⟨-, -, -, rfl⟩ := execRdFrame_next h; exact enablesKept_giveResult _
  case fbWrite => obtain ⟨-, -, -, rfl⟩ := hostWrite_next h; exact enablesKept_store _ _ _ _
  case fbRead => obtain ⟨-, -, -, v, -, rfl⟩ := hostRead_next h; exact enablesKept_giveResult _
  case atWrite => obtain ⟨-, -, -, rfl⟩ := hostWrite_next h; exact enablesKept_store _ _ _ _
  case atRead => obtain ⟨-, -, -, v, -, rfl⟩ := hostRead_next h; exact enablesKept_giveResult _
  all_goals simp [isHostOp, Instr.space] at hi

theorem KeptOrScanned.keyEn_eq (h : KeptOrScanned s t) : t.keys.keyEn = s.keys.keyEn := by
  obtain ⟨hk, -⟩ | ⟨u, -, hu, -, hk, -⟩ := h
  · rw [hk]
  · rw [hk, (scan_keys u).2.1, hu]

/-- Of all operations only DispInit and KeyInit raise an enable or record an Init. -/
theorem exec_enablesKept (hd : ∀ m, effective i ≠ .dispInit m) (hk : effective i ≠ .keyInit) (h : exec i s = .next t) :
    EnablesKept s t := by
  obtain ⟨h, hw⟩ := exec_effective h
  cases hi : isHostOp (effective i) with
  | true => exact exec_host_enablesKept hi hd hk h
  | false =>
    obtain ⟨hv, hr⟩ := exec_videoEffect hi hw h
    have hke := (exec_keptOrScanned hi hw h).2.keyEn_eq
    exact ⟨hr, hv.dispEn_eq ▸ id, hke ▸ id⟩

end

theorem remap_length_of_legal {c : Cfg} (h : c.legal = true) (hr : c.role = .display) : c.remap.length = 256 := by
  simp only [Cfg.legal, hr, Cfg.legalDisplay, Bool.and_eq_true, beq_iff_eq] at h
  tauto

/-- KeyInit's run of writes fills RM with the 256 bytes of CFG.REMAP (20_memory.md R64). -/
theorem keyInitProtocol_rm {s : State} (hl : s.cfg.remap.length = 256) {b : Nat} (hb : b < 256) :
    memRead (keyInitProtocol s) .rm b = s.cfg.remap[b]? := by
  have hbyte : s.cfg.remap[b]? = some (s.cfg.remap[b]'(hl ▸ hb)) := List.getElem?_eq_getElem _
  calc memRead (keyInitProtocol s) .rm b
      = memRead (memWriteFrom .rm 0 s.cfg.remap s) .rm b := memRead_congr .rm b rfl (by simp)
    _ = s.cfg.remap[b]? := by
      simp only [memRead_memWriteFrom .rm 0 _ s (by decide), Nat.zero_le, if_true, Nat.sub_zero, hbyte]

theorem keyInit_memoInv {s t : State} (h : execKeyInit s = .next t) (hs : MemoInv s) : MemoInv t := by
  obtain ⟨hc, hd, -, -⟩ := hs
  obtain ⟨-, -, -, ⟨hr, rfl⟩ | ⟨hr, rfl⟩⟩ := execKeyInit_next h
  · refine ⟨by simpa using hc, by simpa [keyInitKeys] using hd, fun _ => rfl, fun _ _ b hb => ?_⟩
    calc memRead (keyInitKeys (keyInitProtocol s)) .rm b
        = memRead (keyInitProtocol s) .rm b := memRead_congr .rm b rfl (by simp)
      _ = s.cfg.remap[b]? := keyInitProtocol_rm (remap_length_of_legal hc hr) hb
      _ = (keyInitKeys (keyInitProtocol s)).cfg.remap[b]? := by simp
  · exact ⟨hc, hd, fun _ => rfl, fun hr' => absurd (hr.symm.trans hr') (by decide)⟩

theorem dispInit_memoInv {m : Byte} {s t : State} (h : execDispInit m s = .next t) (hs : MemoInv s) : MemoInv t := by
  obtain ⟨hc, -, hk, ht⟩ := hs
  obtain ⟨-, -, -, -, rfl⟩ := execDispInit_next h
  exact ⟨hc, fun _ => rfl, hk, ht⟩

theorem MemoInv.of_kept {s t : State} (hs : MemoInv s) (hc : t.cfg = s.cfg) (hk : EnablesKept s t)
    (hm : ∀ b, memRead t .rm b = memRead s .rm b) : MemoInv t := by
  obtain ⟨hl, hd, hke, ht⟩ := hs
  obtain ⟨⟨hdr, hkr⟩, hden, hken⟩ := hk
  unfold MemoInv
  rw [hc, hdr, hkr]
  exact ⟨hl, hd ∘ hden, hke ∘ hken, fun h1 h2 b hb => (hm b).trans (ht h1 h2 b hb)⟩

theorem exec_memoInv {i : Instr} {s t : State} (h : exec i s = .next t) (hs : MemoInv s) : MemoInv t := by
  have he := (exec_effective h).1
  by_cases hki : effective i = .keyInit
  · rw [hki] at he
    exact keyInit_memoInv he hs
  · by_cases hdi : ∃ m, effective i = .dispInit m
    · obtain ⟨m, hdi⟩ := hdi
      rw [hdi] at he
      exact dispInit_memoInv he hs
    · obtain ⟨hc, hm⟩ := configurationNeverChanges i s t h
      exact hs.of_kept hc (exec_enablesKept (fun m e => hdi ⟨m, e⟩) hki h) fun b => by_contra fun hb => hki (hm b hb)

end Sys2Proof.Machine

/-! ### The statements -/

section
open Sys2Proof Sys2Proof.Machine

/-- Settles O52: fetching moves the script only, and every operation writes memory through `cellPut`, which keeps the form. -/
theorem stepKeepsMemoryCanonical : Obligations.StepKeepsMemoryCanonical := by
  intro s t hs h
  obtain ⟨i, rest, -, h⟩ := step_next h
  exact exec_mem_wf h (by simpa using hs)

/-- Settles O56: a row is armed inside its buffers and read to its last byte; DispInit and DispTerm leave none. -/
theorem stepKeepsTheSerialiserInside : Obligations.StepKeepsTheSerialiserInside := by
  intro s t hs h
  obtain ⟨i, rest, -, h⟩ := step_next h
  exact exec_serialiserInv h (hs.congr (by simp) (by simp))

/-- Settles O57: the two Init operations establish what they record, and no other operation records an Init, raises an enable or
changes RM. -/
theorem stepKeepsTheMemoisedTable : Obligations.StepKeepsTheMemoisedTable := by
  intro s t hs h
  obtain ⟨i, rest, -, h⟩ := step_next h
  exact exec_memoInv h hs

end
end

section
/-! PROOF. The encodings of 30_encoding.md: the fields of a host word, what each decoder answers, and the two round trips. -/

namespace Sys2Proof

/-! ### The fields and the bytes of a host word -/

/-- A word is its upper and its lower bits. -/
theorem extractLsb'_append_low {hi lo : Nat} (x : BitVec (hi + lo)) : x.extractLsb' lo hi ++ x.extractLsb' 0 lo = x := by
  rw [BitVec.extractLsb'_append_extractLsb'_eq_extractLsb' (Nat.zero_add lo).symm, BitVec.extractLsb'_eq_self]

section
variable (sel rsv : BitVec 4) (a : BitVec 16) (d : Byte) (w : BitVec 32)

@[simp] theorem h32Sel_append : h32Sel (sel ++ rsv ++ a ++ d) = sel :=
  calc (sel ++ rsv ++ a ++ d).extractLsb' 28 4
      = (sel ++ rsv ++ a).extractLsb' 20 4 := BitVec.extractLsb'_append_eq_of_le (by decide)
    _ = (sel ++ rsv).extractLsb' 4 4 := BitVec.extractLsb'_append_eq_of_le (by decide)
    _ = sel := BitVec.extractLsb'_append_eq_left

@[simp] theorem h32Rsv_append : h32Rsv (sel ++ rsv ++ a ++ d) = rsv :=
  calc (sel ++ rsv ++ a ++ d).extractLsb' 24 4
      = (sel ++ rsv ++ a).extractLsb' 16 4 := BitVec.extractLsb'_append_eq_of_le (by decide)
    _ = (sel ++ rsv).extractLsb' 0 4 := BitVec.extractLsb'_append_eq_of_le (by decide)
    _ = rsv := BitVec.extractLsb'_append_eq_right

@[simp] theorem h32Addr_append : h32Addr (sel ++ rsv ++ a ++ d) = a :=
  calc (sel ++ rsv ++ a ++ d).extractLsb' 8 16
      = (sel ++ rsv ++ a).extractLsb' 0 16 := BitVec.extractLsb'_append_eq_of_le (by decide)
    _ = a := BitVec.extractLsb'_append_eq_right

@[simp] theorem h32Data_append : h32Data (sel ++ rsv ++ a ++ d) = d := BitVec.extractLsb'_append_eq_right

/-- A word is its four fields. -/
theorem h32_fields : h32Sel w ++ h32Rsv w ++ h32Addr w ++ h32Data w = w := by
  simp only [h32Sel, h32Rsv, h32Addr, h32Data]
  rw [BitVec.extractLsb'_append_extractLsb'_eq_extractLsb' (by rfl),
    BitVec.extractLsb'_append_extractLsb'_eq_extractLsb' (by rfl),
    BitVec.extractLsb'_append_extractLsb'_eq_extractLsb' (by rfl)]
  exact BitVec.extractLsb'_eq_self

/-- A word is its four bytes. -/
@[simp] theorem wordOfBytes_bytes :
    wordOfBytes (w.extractLsb' 24 8) (w.extractLsb' 16 8) (w.extractLsb' 8 8) (w.extractLsb' 0 8) = w := by
  unfold wordOfBytes
  rw [BitVec.extractLsb'_append_extractLsb'_eq_extractLsb' (by rfl),
    BitVec.extractLsb'_append_extractLsb'_eq_extractLsb' (by rfl),
    BitVec.extractLsb'_append_extractLsb'_eq_extractLsb' (by rfl)]
  exact BitVec.extractLsb'_eq_self

theorem wordBytes_wordOfBytes (b3 b2 b1 b0 : Byte) : wordBytes (wordOfBytes b3 b2 b1 b0) = [b3, b2, b1, b0] := by
  have e3 : (b3 ++ b2 ++ b1 ++ b0).extractLsb' 24 8 = b3 :=
    calc (b3 ++ b2 ++ b1 ++ b0).extractLsb' 24 8
        = (b3 ++ b2 ++ b1).extractLsb' 16 8 := BitVec.extractLsb'_append_eq_of_le (by decide)
      _ = (b3 ++ b2).extractLsb' 8 8 := BitVec.extractLsb'_append_eq_of_le (by decide)
      _ = b3 := BitVec.extractLsb'_append_eq_left
  have e2 : (b3 ++ b2 ++ b1 ++ b0).extractLsb' 16 8 = b2 :=
    calc (b3 ++ b2 ++ b1 ++ b0).extractLsb' 16 8
        = (b3 ++ b2 ++ b1).extractLsb' 8 8 := BitVec.extractLsb'_append_eq_of_le (by decide)
      _ = (b3 ++ b2).extractLsb' 0 8 := BitVec.extractLsb'_append_eq_of_le (by decide)
      _ = b2 := BitVec.extractLsb'_append_eq_right
  have e1 : (b3 ++ b2 ++ b1 ++ b0).extractLsb' 8 8 = b1 :=
    calc (b3 ++ b2 ++ b1 ++ b0).extractLsb' 8 8
        = (b3 ++ b2 ++ b1).extractLsb' 0 8 := BitVec.extractLsb'_append_eq_of_le (by decide)
      _ = b1 := BitVec.extractLsb'_append_eq_right
  have e0 : (b3 ++ b2 ++ b1 ++ b0).extractLsb' 0 8 = b0 := BitVec.extractLsb'_append_eq_right
  exact congr (congrArg _ e3) (congr (congrArg _ e2) (congr (congrArg _ e1) (congrArg (· :: []) e0)))

/-! ### Which host words spell an operation (R98, R99) -/

/-- The operands of a host operation are 0 where its selector uses none (R99). -/
def OperandsUsed : Prop := (selUsesAddr sel = true ∨ a = 0) ∧ (selUsesData sel = true ∨ d = 0)

theorem h32Legal_append : h32Legal (sel ++ rsv ++ a ++ d) = true ↔ rsv = 0 ∧ OperandsUsed sel a d := by
  simp only [h32Legal, h32Rsv_append, h32Sel_append, h32Addr_append, h32Data_append, Bool.and_eq_true, Bool.or_eq_true,
    beq_iff_eq, OperandsUsed, and_assoc]

/-- The selectors that use `data` are 2, 6, 12 and 14 (R98). -/
theorem selUsesData_iff : selUsesData sel = true ↔ sel.toNat = 2 ∨ sel.toNat = 6 ∨ sel.toNat = 12 ∨ sel.toNat = 14 := by
  simp only [selUsesData, Bool.or_eq_true, beq_iff_eq, ← BitVec.toNat_inj, or_assoc]
  rfl

theorem selUsesAddr_iff : selUsesAddr sel = true ↔ 12 ≤ sel.toNat := decide_eq_true_iff

theorem decodeH32_eq_some {i : Instr} :
    decodeH32 w = some i ↔ h32Legal w = true ∧ i = hostOpOf (h32Sel w) (h32Addr w) (h32Data w) := by
  unfold decodeH32
  split
  · next h => simp only [h, true_and, Option.some.injEq, eq_comm]
  · next h => simp only [h, false_and, reduceCtorEq]

theorem decodeH32_eq_none : decodeH32 w = none ↔ ¬ h32Legal w = true := by simp [decodeH32]

end

section
variable {sel : BitVec 4} {a : BitVec 16} {d : Byte}

theorem decodeH32_h32Word (h : OperandsUsed sel a d) : decodeH32 (h32Word sel a d) = some (hostOpOf sel a d) := by
  rw [decodeH32_eq_some]
  unfold h32Word
  exact ⟨(h32Legal_append ..).mpr ⟨rfl, h⟩, by simp only [h32Sel_append, h32Addr_append, h32Data_append]⟩

/-- A legal word is made of its operation's selector and operands. -/
theorem h32Word_fields {w : BitVec 32} (h : h32Legal w = true) :
    OperandsUsed (h32Sel w) (h32Addr w) (h32Data w) ∧ h32Word (h32Sel w) (h32Addr w) (h32Data w) = w := by
  obtain ⟨hr, ho⟩ := (h32Legal_append ..).mp ((h32_fields w).symm ▸ h)
  refine ⟨ho, ?_⟩
  calc h32Word (h32Sel w) (h32Addr w) (h32Data w)
      = h32Sel w ++ h32Rsv w ++ h32Addr w ++ h32Data w := by rw [hr]; rfl
    _ = w := h32_fields w

/-- Every host operation has a selector and operands (R98). -/
theorem exists_hostOpOf {i : Instr} (hi : i.space = .host) :
    ∃ sel a d, OperandsUsed sel a d ∧ hostOpOf sel a d = i := by
  cases i
  case keyGet => exact ⟨0x0, 0, 0, by simp [OperandsUsed], rfl⟩
  case joyGet => exact ⟨0x1, 0, 0, by simp [OperandsUsed], rfl⟩
  case keyPressed code => exact ⟨0x2, 0, code, by simp [OperandsUsed, selUsesData], rfl⟩
  case keyFlush => exact ⟨0x3, 0, 0, by simp [OperandsUsed], rfl⟩
  case waitVSync => exact ⟨0x4, 0, 0, by simp [OperandsUsed], rfl⟩
  case dispIsVSync => exact ⟨0x5, 0, 0, by simp [OperandsUsed], rfl⟩
  case dispInit m => exact ⟨0x6, 0, m, by simp [OperandsUsed, selUsesData], rfl⟩
  case dispTerm => exact ⟨0x7, 0, 0, by simp [OperandsUsed], rfl⟩
  case keyInit => exact ⟨0x8, 0, 0, by simp [OperandsUsed], rfl⟩
  case keyTerm => exact ⟨0x9, 0, 0, by simp [OperandsUsed], rfl⟩
  case rdScanline => exact ⟨0xA, 0, 0, by simp [OperandsUsed], rfl⟩
  case rdFrame => exact ⟨0xB, 0, 0, by simp [OperandsUsed], rfl⟩
  case fbWrite a v => exact ⟨0xC, a, v, by simp [OperandsUsed, selUsesAddr, selUsesData], rfl⟩
  case fbRead a => exact ⟨0xD, a, 0, by simp [OperandsUsed, selUsesAddr], rfl⟩
  case atWrite a v => exact ⟨0xE, a, v, by simp [OperandsUsed, selUsesAddr, selUsesData], rfl⟩
  case atRead a => exact ⟨0xF, a, 0, by simp [OperandsUsed, selUsesAddr], rfl⟩
  all_goals cases hi

/-- Selector by selector: the encoder writes the operands the selector uses, and the others are 0. -/
theorem encode_hostOpOf (k : WireCodes) (h : OperandsUsed sel a d) :
    encode k (hostOpOf sel a d) = wordBytes (h32Word sel a d) := by
  obtain ⟨n, hn, rfl⟩ : ∃ n, n < 16 ∧ sel = BitVec.ofNat 4 n := ⟨sel.toNat, sel.isLt, by simp⟩
  obtain ⟨ha, hd⟩ := h
  interval_cases n <;> simp [selUsesAddr, selUsesData] at ha hd <;> simp_all [hostOpOf, encode]

end

/-! ### What each decoder answers -/

section
variable {k : WireCodes} {i : Instr} {bs rest : List Byte}

theorem decodeByteWith_eq_ok {f : Byte → Option Instr} :
    decodeByteWith f bs = .ok (i, rest) ↔ ∃ b, f b = some i ∧ bs = b :: rest := by
  cases bs with
  | nil => simp [decodeByteWith]
  | cons b tl => cases hb : f b <;> simp [decodeByteWith, hb, eq_comm]

theorem decodeHostBytes_eq_ok :
    decodeHostBytes bs = .ok (i, rest) ↔ ∃ w, decodeH32 w = some i ∧ bs = wordBytes w ++ rest := by
  constructor
  · intro h
    unfold decodeHostBytes at h
    split at h
    · split at h <;> cases h
      next hw => exact ⟨_, hw, by rw [wordBytes_wordOfBytes]; rfl⟩
    all_goals cases h
  · rintro ⟨w, hw, rfl⟩
    simp [wordBytes, decodeHostBytes, hw]

theorem decodeHostEvent_eq_ok :
    decodeHostEvent bs = .ok (i, rest) ↔ ∃ w, h32Legal w = true ∧ i = .host w ∧ bs = wordBytes w ++ rest := by
  constructor
  · intro h
    unfold decodeHostEvent at h
    split at h
    · split at h <;> cases h
      next hw => exact ⟨_, hw, rfl, by rw [wordBytes_wordOfBytes]; rfl⟩
    · cases h
  · rintro ⟨w, hw, rfl, rfl⟩
    simp [wordBytes, decodeHostEvent, hw]

theorem decodeGarble_eq_ok {mk : Byte → Instr} :
    decodeGarble mk bs = .ok (i, rest) ↔ ∃ x, i = mk x ∧ bs = x :: rest := by
  cases bs <;> simp [decodeGarble, eq_comm]

theorem decodeKeyIn_eq_ok :
    decodeKeyIn bs = .ok (i, rest) ↔ ∃ j v, i = .envKeyIn j v ∧ bs = j :: (if v then 1 else 0) :: rest := by
  constructor
  · intro h
    unfold decodeKeyIn at h
    split at h
    · next j v tl =>
      split at h
      · next hv => cases h; exact ⟨j, false, rfl, by rw [hv]; rfl⟩
      · split at h <;> cases h
        next hv => exact ⟨j, true, rfl, by rw [hv]; rfl⟩
    · cases h
  · rintro ⟨j, v, rfl, rfl⟩
    cases v <;> rfl

/-- The ten pin bits in their two bytes: what the encoder splits the decoder joins. -/
theorem colIn_join (v : BitVec 10) : (0#6 ++ v.extractLsb' 8 2).extractLsb' 0 2 ++ v.extractLsb' 0 8 = v := by
  rw [BitVec.extractLsb'_append_eq_right]
  exact extractLsb'_append_low (hi := 2) (lo := 8) v

/-- The other way round, for a first byte whose bits 7:2 are 0. -/
theorem colIn_split {hi : Byte} (lo : Byte) (h : hi.extractLsb' 2 6 = 0) :
    0#6 ++ (hi.extractLsb' 0 2 ++ lo).extractLsb' 8 2 = hi ∧ (hi.extractLsb' 0 2 ++ lo).extractLsb' 0 8 = lo := by
  refine ⟨?_, BitVec.extractLsb'_append_eq_right⟩
  calc 0#6 ++ (hi.extractLsb' 0 2 ++ lo).extractLsb' 8 2
      = hi.extractLsb' 2 6 ++ hi.extractLsb' 0 2 := by rw [h]; exact congrArg _ BitVec.extractLsb'_append_eq_left
    _ = hi := extractLsb'_append_low (hi := 6) (lo := 2) hi

theorem decodeColIn_eq_ok :
    decodeColIn bs = .ok (i, rest) ↔
      ∃ v, i = .envColIn v ∧ bs = (0#6 ++ v.extractLsb' 8 2) :: v.extractLsb' 0 8 :: rest := by
  constructor
  · intro h
    unfold decodeColIn at h
    split at h
    · next hi lo tl =>
      split at h <;> cases h
      next hh =>
      obtain ⟨e1, e0⟩ := colIn_split lo hh
      exact ⟨_, rfl, by rw [e1, e0]⟩
    · cases h
  · rintro ⟨v, rfl, rfl⟩
    have hz : (0#6 ++ v.extractLsb' 8 2).extractLsb' 2 6 = 0 := BitVec.extractLsb'_append_eq_left
    simp only [decodeColIn, hz, if_true, colIn_join]

/-- A data byte as it is sent is its five raw bits (R95). -/
theorem decodeColData_eq_some {b : Byte} : decodeColData b = some i ↔ ∃ raw, i = .coldata raw ∧ b = 0#3 ++ raw := by
  constructor
  · intro h
    unfold decodeColData at h
    split at h <;> cases h
    next hz =>
    refine ⟨_, rfl, ?_⟩
    calc b = b.extractLsb' 5 3 ++ b.extractLsb' 0 5 := (extractLsb'_append_low (hi := 3) (lo := 5) b).symm
      _ = 0#3 ++ b.extractLsb' 0 5 := by rw [hz]; rfl
  · rintro ⟨raw, rfl, rfl⟩
    have hz : (0#3 ++ raw).extractLsb' 5 3 = 0 := BitVec.extractLsb'_append_eq_left
    have hr : (0#3 ++ raw).extractLsb' 0 5 = raw := BitVec.extractLsb'_append_eq_right
    simp only [decodeColData, hz, if_true, hr]

theorem decodeAck_eq_some {b : Byte} : decodeAck k b = some i ↔ i = .syncAck ∧ b = k.rspSyncAck := by
  simp [decodeAck, eq_comm, and_comm]

theorem decodeKeyCode_eq_some {b : Byte} : decodeKeyCode b = some i ↔ i = .noKey ∧ b = 0 := by
  unfold decodeKeyCode
  split <;> simp_all [eq_comm (a := i)]

/-! ### The round trips -/

/-- An event is read back from its encoding, whatever the link's byte values. -/
theorem decodeScript_encode (k : WireCodes) (hs : i.space = .script) (hw : i.wellFormed = true) :
    decodeScript (encode k i ++ rest) = .ok (i, rest) := by
  cases i
  case garbleD2I x | garbleI2D x => exact decodeGarble_eq_ok.mpr ⟨x, rfl, rfl⟩
  case envKeyIn j v => exact decodeKeyIn_eq_ok.mpr ⟨j, v, rfl, rfl⟩
  case envColIn v => exact decodeColIn_eq_ok.mpr ⟨v, rfl, rfl⟩
  case host w => exact decodeHostEvent_eq_ok.mpr ⟨w, hw, rfl, rfl⟩
  case tick | serRead | keyTick | dlvD2I | dlvI2D | dropD2I | dropI2D | rspStep => rfl
  all_goals cases hs

/-- What a script decoder answers is an event, and the bytes it read are the event's encoding. -/
theorem encode_of_decodeScript (h : decodeScript bs = .ok (i, rest)) :
    i.wellFormed = true ∧ i.space = .script ∧ bs = encode k i ++ rest := by
  cases bs with
  | nil => cases h
  | cons tag tl =>
    have tag_eq {n : Nat} (e : tag.toNat = n) : tag = BitVec.ofNat 8 n := by rw [← e, BitVec.ofNat_toNat, BitVec.setWidth_eq]
    unfold decodeScript at h
    dsimp only at h
    -- one case for each tag of R102, in its order
    split at h
    case h_8 e | h_9 e =>
      obtain ⟨x, rfl, rfl⟩ := decodeGarble_eq_ok.mp h
      exact ⟨rfl, rfl, by rw [tag_eq e]; rfl⟩
    case h_11 e =>
      obtain ⟨j, v, rfl, rfl⟩ := decodeKeyIn_eq_ok.mp h
      exact ⟨rfl, rfl, by rw [tag_eq e]; rfl⟩
    case h_12 e =>
      obtain ⟨v, rfl, rfl⟩ := decodeColIn_eq_ok.mp h
      exact ⟨rfl, rfl, by rw [tag_eq e]; rfl⟩
    case h_13 e =>
      obtain ⟨w, hw, rfl, rfl⟩ := decodeHostEvent_eq_ok.mp h
      exact ⟨hw, rfl, by rw [tag_eq e]; rfl⟩
    case h_14 => cases h
    all_goals
      next e =>
      cases h
      exact ⟨rfl, rfl, by rw [tag_eq e]; rfl⟩

theorem encode_of_decodeCommand {b : Byte} (h : decodeCommand k b = some i) :
    i.wellFormed = true ∧ i.space = .command ∧ encode k i = [b] := by
  unfold decodeCommand at h
  split at h
  · next e => cases h; exact ⟨rfl, rfl, e ▸ rfl⟩
  · split at h
    · next e => cases h; exact ⟨rfl, rfl, e ▸ rfl⟩
    · split at h <;> cases h
      next e => exact ⟨rfl, rfl, e ▸ rfl⟩

theorem encode_of_decodeLineClass {b : Byte} (h : decodeLineClass b = some i) :
    i.wellFormed = true ∧ i.space = .lineClass ∧ encode k i = [b] := by
  unfold decodeLineClass at h
  split at h <;> cases h
  all_goals next e => exact ⟨rfl, rfl, congrArg (· :: []) (BitVec.eq_of_toNat_eq e.symm)⟩

theorem wellFormed_of_space_host (h : i.space = .host) : i.wellFormed = true := by
  cases i
  case host => cases h
  all_goals rfl

end

end Sys2Proof

/-! ### The statements -/

section
open Sys2Proof Sys2Proof.Machine

/-- Settles O1: each code space reads an operation's encoding back; the command bytes are told apart because they are
distinct. -/
theorem decodeOfEncode : Obligations.DecodeOfEncode := by
  intro k i rest hk hw
  cases hs : i.space with
  | host =>
    obtain ⟨sel, a, d, ho, rfl⟩ := exists_hostOpOf hs
    exact decodeHostBytes_eq_ok.mpr ⟨h32Word sel a d, decodeH32_h32Word ho, by rw [encode_hostOpOf k ho]⟩
  | command =>
    have hne : k.cmdSync ≠ k.cmdRowHigh ∧ k.cmdSync ≠ k.cmdRowLow ∧ k.cmdRowHigh ≠ k.cmdRowLow := by
      simpa [WireCodes.distinct, and_assoc] using hk
    obtain ⟨hhigh, hlow, hhl⟩ := hne
    cases i
    case sync | rowHigh | rowLow =>
      exact decodeByteWith_eq_ok.mpr ⟨_, by simp [decodeCommand, hhigh.symm, hlow.symm, hhl.symm], rfl⟩
    all_goals cases hs
  | script => exact decodeScript_encode k hs hw
  | ack =>
    cases i
    case syncAck => exact decodeByteWith_eq_ok.mpr ⟨_, decodeAck_eq_some.mpr ⟨rfl, rfl⟩, rfl⟩
    all_goals cases hs
  | colData =>
    cases i
    case coldata raw => exact decodeByteWith_eq_ok.mpr ⟨_, decodeColData_eq_some.mpr ⟨raw, rfl, rfl⟩, rfl⟩
    all_goals cases hs
  | keyCode =>
    cases i
    case noKey => exact decodeByteWith_eq_ok.mpr ⟨_, decodeKeyCode_eq_some.mpr ⟨rfl, rfl⟩, rfl⟩
    all_goals cases hs
  | lineClass =>
    cases i
    case lcActive | lcFront | lcVSync | lcBack => rfl
    all_goals cases hs

/-- Settles O2: by the code space, from what each decoder answers. -/
theorem encodeOfDecode : Obligations.EncodeOfDecode := by
  intro k sp bs rest i h
  cases sp with
  | script => exact encode_of_decodeScript h
  | host =>
    obtain ⟨w, hw, rfl⟩ := decodeHostBytes_eq_ok.mp h
    obtain ⟨hl, rfl⟩ := (decodeH32_eq_some w).mp hw
    obtain ⟨ho, e⟩ := h32Word_fields hl
    have hs : (hostOpOf (h32Sel w) (h32Addr w) (h32Data w)).space = .host := by
      simpa [isHostOp] using isHostOp_hostOpOf (h32Sel w) (h32Addr w) (h32Data w)
    exact ⟨wellFormed_of_space_host hs, hs, by rw [encode_hostOpOf k ho, e]⟩
  | command =>
    obtain ⟨b, hb, rfl⟩ := decodeByteWith_eq_ok.mp h
    obtain ⟨hw, hs, e⟩ := encode_of_decodeCommand hb
    exact ⟨hw, hs, by rw [e]; rfl⟩
  | ack =>
    obtain ⟨b, hb, rfl⟩ := decodeByteWith_eq_ok.mp h
    obtain ⟨rfl, rfl⟩ := decodeAck_eq_some.mp hb
    exact ⟨rfl, rfl, rfl⟩
  | colData =>
    obtain ⟨b, hb, rfl⟩ := decodeByteWith_eq_ok.mp h
    obtain ⟨raw, rfl, rfl⟩ := decodeColData_eq_some.mp hb
    exact ⟨rfl, rfl, rfl⟩
  | keyCode =>
    obtain ⟨b, hb, rfl⟩ := decodeByteWith_eq_ok.mp h
    obtain ⟨rfl, rfl⟩ := decodeKeyCode_eq_some.mp hb
    exact ⟨rfl, rfl, rfl⟩
  | lineClass =>
    obtain ⟨b, hb, rfl⟩ := decodeByteWith_eq_ok.mp h
    obtain ⟨hw, hs, e⟩ := encode_of_decodeLineClass (k := k) hb
    exact ⟨hw, hs, by rw [e]; rfl⟩

/-- Settles O4: the complement of R99's two conditions, field by field. -/
theorem reservedHostWordsAreRefused : Obligations.ReservedHostWordsAreRefused := by
  intro sel rsv a d
  rw [decodeH32_eq_none, h32Legal_append, OperandsUsed, selUsesAddr_iff, selUsesData_iff, ← Nat.not_lt]
  simp only [not_and_or, not_or, not_not, ne_eq, and_assoc]

/-- Settles O3, by evaluating the decoders. -/
theorem specWordsDecode : Obligations.SpecWordsDecode := by
  unfold Obligations.SpecWordsDecode
  decide

end
end

section
/-! PROOF. The event queue: the ring's arithmetic, what each operation does to the two offsets, and that every stored slot keeps
holding a key code (30_encoding.md R103; 44_input_event_queue.md R231, R232). -/

namespace Sys2Proof.Machine

open Sys2Proof

/-! ### The ring -/

/-- A sum of at most two turns of the ring, reduced into it. -/
theorem mod_eq_ite_of_lt_two_mul {x n : Nat} (h : x < 2 * n) : x % n = if x < n then x else x - n := by
  split
  · next hx => exact Nat.mod_eq_of_lt hx
  · next hx => rw [Nat.mod_eq_sub_mod (Nat.not_lt.mp hx), Nat.mod_eq_of_lt (by omega)]

section
variable {n rd wr m : Nat} (hr : rd < n) (hw : wr < n)
include hr hw

theorem ringCount_eq : (wr + n - rd) % n = if rd ≤ wr then wr - rd else wr + n - rd := by
  rw [mod_eq_ite_of_lt_two_mul (by omega)]
  split <;> split <;> omega

/-- The slot after the stored ones is the write offset. -/
theorem ringSlot_count : (rd + (wr + n - rd) % n) % n = wr := by
  rw [ringCount_eq hr hw, mod_eq_ite_of_lt_two_mul (by split <;> omega)]
  split <;> split <;> omega

/-- A stored slot is not the one at the write offset. -/
theorem ringSlot_ne (hm : m < (wr + n - rd) % n) : (rd + m) % n ≠ wr := by
  have hle := ringCount_eq hr hw
  rw [hle] at hm
  rw [mod_eq_ite_of_lt_two_mul (by split at hm <;> omega)]
  split <;> split at hm <;> omega

/-- A push into a ring that is not full stores one event more. -/
theorem ringCount_push (hfull : (wr + 1) % n ≠ rd) : ((wr + 1) % n + n - rd) % n = (wr + n - rd) % n + 1 := by
  rw [ringCount_eq hr (Nat.mod_lt _ (by omega)), ringCount_eq hr hw]
  rw [mod_eq_ite_of_lt_two_mul (by omega)] at hfull ⊢
  split_ifs at hfull ⊢ <;> omega

/-- A pop from a ring that is not empty leaves one event less. -/
theorem ringCount_pop (hne : rd ≠ wr) : (wr + n - (rd + 1) % n) % n + 1 = (wr + n - rd) % n := by
  rw [ringCount_eq (Nat.mod_lt _ (by omega)) hw, ringCount_eq hr hw, mod_eq_ite_of_lt_two_mul (by omega)]
  split <;> split <;> split <;> omega

end

/-! ### The queue invariant through the shared operations -/

section
variable {s t : State}

theorem queueSlots_pos (c : Cfg) : 0 < c.queueSlots := Nat.succ_pos _

/-- The invariant sees the configuration, the two offsets and the queue memory. -/
theorem QueueInv.congr (h : QueueInv s) (hc : t.cfg = s.cfg) (hw : t.keys.qWr = s.keys.qWr) (hr : t.keys.qRd = s.keys.qRd)
    (hm : ∀ a, memRead t .qb a = memRead s .qb a) : QueueInv t := by
  simpa only [QueueInv, queueCount, hc, hw, hr, hm] using h

/-- An empty queue asks nothing of the queue memory. -/
theorem queueInv_of_empty (hl : s.cfg.legal = true) (hw : s.keys.qWr < s.cfg.queueSlots) (he : s.keys.qRd = s.keys.qWr) :
    QueueInv s := by
  refine ⟨hl, hw, he ▸ hw, fun n hn => ?_⟩
  have h0 : queueCount s = 0 := by simp [queueCount, he]
  omega

/-- The key code of a key of a legal configuration is a code in `1 .. NKEY` (R100, R103). -/
theorem keyCode_range {c : Cfg} (hl : c.legal = true) {i : Nat} (hi : i < c.nkey) :
    1 ≤ (keyCode i).toNat ∧ (keyCode i).toNat ≤ c.nkey := by
  have hn : c.nkey ≤ 255 := by
    simp only [Cfg.legal, Bool.and_eq_true, decide_eq_true_eq] at hl
    obtain ⟨⟨-, hn⟩, -⟩ := hl
    exact hn
  have he : (keyCode i).toNat = i + 1 := by
    rw [keyCode, BitVec.toNat_ofNat, Nat.mod_eq_of_lt (by omega)]
  omega

/-- A push stores its code in the slot after the stored ones, or drops it (R231). -/
theorem qPush_queueInv (h : QueueInv s) {c : Byte} (hc : 1 ≤ c.toNat ∧ c.toNat ≤ s.cfg.nkey) : QueueInv (qPush s c) := by
  obtain ⟨-, e⟩ | ⟨hf, e⟩ := qPush_cases s c <;> rw [e]
  · exact h
  · obtain ⟨hl, hw, hr, hs⟩ := h
    have hfull : (s.keys.qWr + 1) % s.cfg.queueSlots ≠ s.keys.qRd := by simpa [queueFull, ringNext] using hf
    have hread (k : Keys) (a : Nat) :
        memRead ((memWrite s .qb s.keys.qWr c).withKeys k) .qb a = memRead (memWrite s .qb s.keys.qWr c) .qb a := rfl
    refine ⟨by simpa using hl, ?_, by simpa using hr, fun n hn => ?_⟩
    · simpa [ringNext] using Nat.mod_lt _ (queueSlots_pos _)
    · simp only [queueCount, ringNext, State.withKeys_keys, State.withKeys_cfg, memWrite_frame,
        ringCount_push hr hw hfull] at hn
      simp only [State.withKeys_keys, State.withKeys_cfg, memWrite_frame, hread]
      by_cases hlt : n < queueCount s
      · rw [memRead_memWrite_other s .qb .qb c (.inr (ringSlot_ne hr hw hlt))]
        exact hs n hlt
      · obtain rfl : n = queueCount s := by unfold queueCount at hlt ⊢; omega
        refine ⟨c, ?_, hc⟩
        rw [queueCount, ringSlot_count hr hw, memRead_memWrite_same s .qb _ c (by decide)]

/-- Moving the read offset over one stored event keeps the others (R232). -/
theorem QueueInv.pop (h : QueueInv s) (hne : queueEmpty s = false) (hc : t.cfg = s.cfg) (hw : t.keys.qWr = s.keys.qWr)
    (hr : t.keys.qRd = ringNext s.cfg s.keys.qRd) (hm : ∀ a, memRead t .qb a = memRead s .qb a) : QueueInv t := by
  obtain ⟨hl, hwr, hrd, hs⟩ := h
  have hne : s.keys.qRd ≠ s.keys.qWr := by simpa [queueEmpty] using hne
  have hcount := ringCount_pop hrd hwr hne
  simp only [QueueInv, queueCount, hc, hw, hr, hm, ringNext]
  refine ⟨hl, hwr, Nat.mod_lt _ (queueSlots_pos _), fun n hn => ?_⟩
  have hslot : ((s.keys.qRd + 1) % s.cfg.queueSlots + n) % s.cfg.queueSlots = (s.keys.qRd + (n + 1)) % s.cfg.queueSlots := by
    rw [Nat.mod_add_mod, Nat.add_assoc, Nat.add_comm 1]
  rw [hslot]
  exact hs (n + 1) (by unfold queueCount; omega)

theorem debounceKey_queueInv (h : QueueInv s) {i : Nat} (a : Bool) (hi : i < s.cfg.nkey) : QueueInv (debounceKey i a s) := by
  have hset (k : KeyState) : QueueInv (setKeyState s i k) := h.congr rfl rfl rfl fun _ => rfl
  rw [debounceKey_eq]
  split
  · exact qPush_queueInv (hset _) (keyCode_range h.1 hi)
  · exact hset _

/-- Samples of keys that exist queue key codes only (R212, R220). -/
theorem debounceFrom_queueInv (l : List Bool) {i : Nat} (h : QueueInv s) (hi : i + l.length ≤ s.cfg.nkey) :
    QueueInv (debounceFrom i l s) := by
  induction l generalizing i s with
  | nil => exact h
  | cons a l ih =>
    rw [List.length_cons] at hi
    exact ih (debounceKey_queueInv h a (by omega)) (by simp only [debounceKey_frame]; omega)

theorem scan_queueInv (h : QueueInv s) : QueueInv (scan s) := by
  obtain ⟨hk, hm⟩ := scan_keys_mem s
  have hd : QueueInv (debounceFrom 0 (rawVector s) s) := debounceFrom_queueInv _ h (by simp [rawVector])
  exact hd.congr (by simp) (by rw [hk]) (by rw [hk]) fun a => memRead_congr .qb a hm (by simp)

/-! ### The queue invariant through the operations -/

theorem KeptOrScanned.queueInv (h : KeptOrScanned s t) (hc : t.cfg = s.cfg) (hs : QueueInv s) : QueueInv t := by
  obtain ⟨hk, hm⟩ | ⟨u, huc, huk, hum, hk, hm⟩ := h
  · exact hs.congr hc (by rw [hk]) (by rw [hk]) fun a => memRead_congr .qb a hm (by simp)
  · have hu : QueueInv u := hs.congr huc (by rw [huk]) (by rw [huk]) fun a => memRead_congr .qb a hum (by simp)
    exact (scan_queueInv hu).congr (by simp [hc, huc]) (by rw [hk]) (by rw [hk]) fun a => memRead_congr .qb a hm (by simp)

/-- What becomes of the read offset: it stays, it passes one stored event, or it meets the write offset. -/
def ReadMoves (s t : State) : Prop :=
  t.keys.qRd = s.keys.qRd ∨ (queueEmpty s = false ∧ t.keys.qRd = ringNext s.cfg s.keys.qRd) ∨ t.keys.qRd = s.keys.qWr

theorem readMoves_popKey (h : popKey s = .next t) : ReadMoves s t := by
  obtain ⟨-, rfl⟩ | ⟨c, hne, -, rfl⟩ := popKey_next h
  · exact .inl (by simp)
  · exact .inr (.inl ⟨hne, by simp⟩)

/-- The pops and KeyFlush are the only host operations but KeyInit that move the read offset (R246, R247, R249). -/
theorem exec_host_readMoves {i : Instr} (hi : isHostOp i = true) (hk : i ≠ .keyInit) (h : exec i s = .next t) :
    ReadMoves s t := by
  cases i
  case keyInit => exact absurd rfl hk
  case keyGet => obtain ⟨-, -, -, h⟩ := execKeyGet_next h; exact readMoves_popKey h
  case joyGet => obtain ⟨-, -, -, h⟩ := execJoyGet_next h; exact readMoves_popKey h
  case keyFlush => obtain ⟨-, -, -, rfl⟩ := execKeyFlush_next h; exact .inr (.inr (by simp))
  case keyPressed => obtain ⟨-, -, -, rfl⟩ := execKeyPressed_next h; exact .inl (by simp)
  case waitVSync => obtain ⟨-, -, rfl⟩ := execWaitVSync_next h; exact .inl (by simp)
  case dispIsVSync => obtain ⟨-, -, -, rfl⟩ := execDispIsVSync_next h; exact .inl (by simp)
  case dispInit => obtain ⟨-, -, -, -, rfl⟩ := execDispInit_next h; exact .inl (by simp)
  case dispTerm => obtain ⟨-, -, rfl⟩ := execDispTerm_next h; exact .inl (by simp)
  case keyTerm => obtain ⟨-, -, rfl⟩ := execKeyTerm_next h; exact .inl (by simp)
  case rdScanline => obtain ⟨-, -, -, rfl⟩ := execRdScanline_next h; exact .inl (by simp)
  case rdFrame => obtain ⟨-, -, -, rfl⟩ := execRdFrame_next h; exact .inl (by simp)
  case fbWrite | atWrite => obtain ⟨-, -, -, rfl⟩ := hostWrite_next h; exact .inl (by simp)
  case fbRead | atRead => obtain ⟨-, -, -, v, -, rfl⟩ := hostRead_next h; exact .inl (by simp)
  all_goals simp [isHostOp, Instr.space] at hi

/-- KeyInit empties the queue; the others move at most the read offset. -/
theorem exec_host_queueInv {i : Instr} (hi : isHostOp i = true) (h : exec i s = .next t) (hs : QueueInv s) :
    QueueInv t := by
  have he := hostEffect_of_exec hi h
  have hc := he.frame.1
  by_cases hk : i = .keyInit
  · subst hk
    have hz : t.keys.qWr = 0 ∧ t.keys.qRd = 0 := by
      obtain ⟨-, -, -, ⟨-, rfl⟩ | ⟨-, rfl⟩⟩ := execKeyInit_next h <;> exact ⟨rfl, rfl⟩
    exact queueInv_of_empty (hc ▸ hs.1) (hz.1 ▸ queueSlots_pos _) (by rw [hz.1, hz.2])
  · obtain ⟨-, hw, -⟩ := he.keys_eq hk
    have hm := he.memRead_eq hk (.inl rfl)
    obtain hr | ⟨hne, hr⟩ | hr := exec_host_readMoves hi hk h
    · exact hs.congr hc hw hr hm
    · exact hs.pop hne hc hw hr hm
    · exact queueInv_of_empty (hc ▸ hs.1) (by rw [hw, hc]; exact hs.2.1) (by rw [hr, hw])

theorem exec_queueInv {i : Instr} (h : exec i s = .next t) (hs : QueueInv s) : QueueInv t := by
  have hc := (configurationNeverChanges i s t h).1
  obtain ⟨h, hw⟩ := exec_effective h
  cases hi : isHostOp (effective i) with
  | true => exact exec_host_queueInv hi h hs
  | false => exact (exec_keptOrScanned hi hw h).2.queueInv hc hs

end

end Sys2Proof.Machine

section
open Sys2Proof Sys2Proof.Machine

/-- Settles O54: fetching moves the script only, and every operation keeps the offsets in the ring and the stored codes. -/
theorem stepKeepsTheQueue : Obligations.StepKeepsTheQueue := by
  intro s t hs h
  obtain ⟨i, rest, -, h⟩ := step_next h
  exact exec_queueInv h (hs.congr (by simp) (by simp) (by simp) fun _ => rfl)

end
end

section
/-! PROOF. Single operations on a state that meets their preconditions: the host operations and the HOST event, NOKEY, the
response bytes by position, the line class codes, and a step. -/

namespace Sys2Proof.Machine

open Sys2Proof

section
variable {s : State}

/-! ### The guards on a state that passes them -/

theorem hostStep_of_ready (h : HostReady s) (k : Answer) : hostStep s k = k :=
  hostStep_ok (by simpa [hasDisplay] using h.1) h.2 k

theorem needKeys_of_ready (h : s.host.keyReady = true) (k : Answer) : needKeys s k = k := if_pos h

theorem needDisplay_of_ready (h : s.host.dispReady = true) (k : Answer) : needDisplay s k = k := if_pos h

theorem displayStep_of_runs (h : DisplayRuns s) (k : Answer) : displayStep s k = k := by
  simp [displayStep, hasDisplay_of_displayRuns h, h.2]

/-! ### Host operations complete where their preconditions hold (45_host_api.md R263) -/

/-- A pop answers from an empty queue, and from a stored slot that holds a byte. -/
theorem exists_popKey (h : s.keys.qRd = s.keys.qWr ∨ (memRead s .qb s.keys.qRd).isSome = true) :
    ∃ t, popKey s = .next t := by
  unfold popKey
  obtain ⟨-, e⟩ | ⟨c, -, -, e⟩ | ⟨hne, hnone, -⟩ := qPop_cases s
  · exact ⟨_, by rw [e]⟩
  · exact ⟨_, by rw [e]⟩
  · have hne : s.keys.qRd ≠ s.keys.qWr := by simpa [queueEmpty] using hne
    obtain he | hsome := h
    · exact absurd he hne
    · simp [hnone] at hsome

theorem exists_hostWrite (h : HostReady s) (sp : Space) {limit : Nat} {a : BitVec 16} (v : Byte) (ha : a.toNat < limit) :
    ∃ t, hostWrite sp limit a v s = .next t :=
  ⟨_, (hostStep_of_ready h _).trans (if_pos ha)⟩

theorem exists_hostRead (h : HostReady s) {sp : Space} {limit : Nat} {a : BitVec 16} (ha : a.toNat < limit)
    (hv : (memRead s sp a.toNat).isSome = true) : ∃ t, hostRead sp limit a s = .next t := by
  obtain ⟨v, hv⟩ := Option.isSome_iff_exists.mp hv
  exact ⟨_, (hostStep_of_ready h _).trans ((if_pos ha).trans (by rw [hv]))⟩

theorem exists_keyInit (h : HostReady s) (hk : s.keys.keyEn = false) : ∃ t, execKeyInit s = .next t := by
  unfold execKeyInit
  rw [hostStep_of_ready h, hk]
  cases hr : s.cfg.role with
  | single => exact ⟨_, rfl⟩
  | display => exact ⟨_, rfl⟩
  | input => exact absurd hr h.1

theorem exists_dispInit (h : HostReady s) {m : Byte} (hd : s.video.dispEn = false) (hm : m.toNat < s.cfg.profiles.length) :
    ∃ t, execDispInit m s = .next t := by
  unfold execDispInit
  rw [hostStep_of_ready h, hd]
  exact ⟨_, if_neg (Nat.not_le.mpr hm)⟩

/-- A host operation completes where its own precondition holds. -/
theorem exists_of_hostOpReady {i : Instr} (h : HostOpReady i s) : ∃ t, exec i s = .next t := by
  obtain ⟨hr, hp⟩ := h
  have hkeys (hk : s.host.keyReady = true) (k : Answer) : hostStep s (needKeys s k) = k :=
    (hostStep_of_ready hr _).trans (needKeys_of_ready hk k)
  have hdisp (hd : s.host.dispReady = true) (k : Answer) : hostStep s (needDisplay s k) = k :=
    (hostStep_of_ready hr _).trans (needDisplay_of_ready hd k)
  cases i
  case keyGet | joyGet =>
    obtain ⟨t, ht⟩ := exists_popKey hp.2
    exact ⟨t, (hkeys hp.1 _).trans ht⟩
  case keyPressed | keyFlush => exact ⟨_, hkeys hp _⟩
  case dispIsVSync | rdScanline | rdFrame => exact ⟨_, hdisp hp _⟩
  case waitVSync | dispTerm | keyTerm => exact ⟨_, hostStep_of_ready hr _⟩
  case dispInit => exact exists_dispInit hr hp.1 hp.2
  case keyInit => exact exists_keyInit hr hp
  case fbWrite a v => exact exists_hostWrite hr .fb v hp
  case atWrite a v => exact exists_hostWrite hr .atr v hp
  case fbRead | atRead => exact exists_hostRead hr hp.1 hp.2
  all_goals exact hp.elim

/-! ### Positions on the back porch -/

/-- On line `BP_START + n` of a display chip with both enables 1 the initiator is in slot `n` (R152, R193). -/
theorem slotInProgress_eq_some (hr : s.cfg.role = .display) (hd : s.video.dispEn = true) (hk : s.keys.keyEn = true) {n : Nat}
    (hl : s.video.sl.toNat = bpStart s.profile + n) : s.slotInProgress = some n := by
  have hle : fpStart s.profile ≤ vsStart s.profile ∧ vsStart s.profile ≤ bpStart s.profile :=
    ⟨Nat.le_add_right _ _, Nat.le_add_right _ _⟩
  have hc : s.lineClass = .back := by
    rw [State.lineClass, classify, if_neg (by omega), if_neg (by omega), if_neg (by omega)]
  rw [State.slotInProgress, if_pos ⟨hr, hd, hk, hc⟩, hl, slotOf, Nat.add_sub_cancel_left]

theorem slotWork_even {nrow r : Nat} (h : r < nrow) : slotWork nrow (2 * r + 2) = .even r := by
  rw [slotWork, if_neg (by omega), if_neg (by omega), if_neg (by omega), if_neg (by omega)]
  congr 1
  omega

theorem slotWork_odd_succ {nrow r : Nat} (h : r < nrow) : slotWork nrow (2 * r + 3) = .odd (r + 1) := by
  rw [slotWork, if_neg (by omega), if_neg (by omega), if_neg (by omega), if_pos (by omega)]
  congr 1
  omega

/-! ### Line classes -/

/-- The code of the class of the line in progress does that line's action (R101). -/
theorem lineClassStep_eq (h : DisplayRuns s) {c : LineClass} (hc : s.lineClass = c) :
    lineClassStep c s = .next (lineAction c s) :=
  (displayStep_of_runs h _).trans (if_pos hc)

end

end Sys2Proof.Machine

section
open Sys2Proof Sys2Proof.Machine

/-- Settles O22: the event is its operation (`exec_host`), which completes where its precondition holds. -/
theorem hostEventRunsItsOperation : Obligations.HostEventRunsItsOperation := by
  intro w s
  refine ⟨fun i hi hready => ?_, fun hnone => ?_⟩
  · obtain ⟨t, ht⟩ := exists_of_hostOpReady hready
    exact ⟨t, (exec_host hi s).trans ht, ht⟩
  · show execHost w s = _
    rw [execHost, hnone]

/-- Settles O5: the two answers of the decoder. -/
theorem stepRunsTheDecodedInstruction : Obligations.StepRunsTheDecodedInstruction := by
  intro s
  refine ⟨fun i rest h => ?_, fun r h => ?_⟩
  · have hf : fetch s = .ok (i, rest) := h
    rw [step, hf]
    rfl
  · have hf : fetch s = .error r := h
    rw [step, hf]

/-- Settles O11: the line's position names the slot, and the slot the latch. -/
theorem responseBytesAreTaken : Obligations.ResponseBytesAreTaken := by
  intro s raw r hrole hd hk hr
  refine ⟨fun hl => ?_, fun hl => ?_, fun hl => ?_⟩ <;> have hslot := slotInProgress_eq_some hrole hd hk hl
  · show execSyncAck s = _
    rw [execSyncAck, if_pos hslot, latchAck, linkOkFlag, beq_self_eq_true]
    rfl
  · show execColdata raw s = _
    rw [execColdata, hslot, Option.map_some, slotWork_even hr]
    rfl
  · show execColdata raw s = _
    rw [execColdata, hslot, Option.map_some, slotWork_odd_succ hr]
    rfl

/-- Settles O23: the host's guard lets NOKEY through. -/
theorem noKeyIsHandedToTheHost : Obligations.NoKeyIsHandedToTheHost := by
  intro s h
  exact hostStep_of_ready h _

/-- Settles O35: each code does the action of its class. -/
theorem lineClassCodesRun : Obligations.LineClassCodesRun := by
  intro s h
  exact ⟨lineClassStep_eq h, lineClassStep_eq h, lineClassStep_eq h, lineClassStep_eq h⟩

end
end

section
/-! PROOF. No operation reads or writes the script: exchanging the script commutes with every shared operation and every
meaning, and so stepping through an encoded script runs its statements. -/

namespace Sys2Proof.Machine

open Sys2Proof

/-- The state with the script `l` to run, read in code space `sp`. -/
def State.load (s : State) (sp : CodeSpace) (l : List Byte) : State :=
  s.withSched { s.sched with space := sp, script := l }

/-- An answer with the script of its next state replaced in the same way. -/
def loadAnswer (sp : CodeSpace) (l : List Byte) : Answer → Answer
  | .next t => .next (t.load sp l)
  | .fault f => .fault f
  | .refused r => .refused r

section
variable (s : State) (sp : CodeSpace) (l : List Byte)

@[simp] theorem load_cfg : (s.load sp l).cfg = s.cfg := rfl
@[simp] theorem load_video : (s.load sp l).video = s.video := rfl
@[simp] theorem load_keys : (s.load sp l).keys = s.keys := rfl
@[simp] theorem load_ini : (s.load sp l).ini = s.ini := rfl
@[simp] theorem load_rsp : (s.load sp l).rsp = s.rsp := rfl
@[simp] theorem load_link : (s.load sp l).link = s.link := rfl
@[simp] theorem load_host : (s.load sp l).host = s.host := rfl
@[simp] theorem load_profile : (s.load sp l).profile = s.profile := rfl

theorem load_withVideo (v : Video) : (s.load sp l).withVideo v = (s.withVideo v).load sp l := rfl
theorem load_withHost (h : HostSide) : (s.load sp l).withHost h = (s.withHost h).load sp l := rfl
theorem emit_load (e : TraceEvent) : emit (s.load sp l) e = (emit s e).load sp l := rfl
theorem setKeyState_load (i : Nat) (k : KeyState) : setKeyState (s.load sp l) i k = (setKeyState s i k).load sp l := rfl

@[simp] theorem load_self : s.load s.sched.space s.sched.script = s := rfl

/-! ### The schedule passes through the shared operations -/

theorem memRead_load (m : Space) (a : Nat) : memRead (s.load sp l) m a = memRead s m a :=
  memRead_congr m a rfl fun _ => rfl

theorem memWrite_load (m : Space) (a : Nat) (v : Byte) :
    memWrite (s.load sp l) m a v = (memWrite s m a v).load sp l := by
  cases m <;> rfl

theorem memWriteFrom_load (m : Space) (a : Nat) (vs : List Byte) :
    memWriteFrom m a vs (s.load sp l) = (memWriteFrom m a vs s).load sp l := by
  induction vs generalizing a s with
  | nil => rfl
  | cons v vs ih => rw [memWriteFrom, memWrite_load, ih]; rfl

/-- A free byte is counted in the schedule beside the script. -/
theorem memFetch_load (m : Space) (a : Nat) :
    memFetch (s.load sp l) m a = ((memFetch s m a).1, (memFetch s m a).2.load sp l) := by
  unfold memFetch
  rw [memRead_load]
  split <;> rfl

theorem rxTake_load : rxTake (s.load sp l) = ((rxTake s).1, (rxTake s).2.load sp l) := by
  unfold rxTake
  rw [load_ini]
  split <;> rfl

theorem qPush_load (c : Byte) : qPush (s.load sp l) c = (qPush s c).load sp l := by
  have hf : queueFull (s.load sp l) = queueFull s := rfl
  unfold qPush
  rw [hf]
  split <;> rfl

theorem popKey_load : popKey (s.load sp l) = loadAnswer sp l (popKey s) := by
  have he : queueEmpty (s.load sp l) = queueEmpty s := rfl
  unfold popKey qPop
  rw [he, load_keys, memRead_load]
  cases queueEmpty s with
  | true => rfl
  | false => cases memRead s .qb s.keys.qRd <;> rfl

theorem pollWait_load : pollWait (s.load sp l) = (pollWait s).load sp l := by
  have hb : isVBlank (s.load sp l) = isVBlank s := rfl
  unfold pollWait
  rw [hb, load_host]
  cases s.host.wv <;> cases isVBlank s <;> rfl

/-! ### Through the debouncer and the initiator -/

theorem debounceKey_load (i : Nat) (a : Bool) : debounceKey i a (s.load sp l) = (debounceKey i a s).load sp l := by
  have hk : keyState (s.load sp l) i = keyState s i := rfl
  rw [debounceKey_eq, debounceKey_eq, hk, load_cfg, setKeyState_load, qPush_load]
  split <;> rfl

theorem debounceFrom_load (i : Nat) (as : List Bool) :
    debounceFrom i as (s.load sp l) = (debounceFrom i as s).load sp l := by
  induction as generalizing i s with
  | nil => rfl
  | cons a as ih => rw [debounceFrom, debounceKey_load, ih]; rfl

theorem scan_load : scan (s.load sp l) = (scan s).load sp l := by
  have hr : rawVector (s.load sp l) = rawVector s := rfl
  unfold scan
  rw [hr, debounceFrom_load, load_cfg]
  dsimp only
  split <;> rfl

theorem decodeRow_load (r : Nat) : decodeRow r (s.load sp l) = (decodeRow r s).load sp l := by
  simp only [decodeRow, memFetch_load, load_ini, load_cfg]
  rfl

theorem closeSync_load (t : Option Byte) : closeSync t (s.load sp l) = (closeSync t s).load sp l := by
  cases t <;> rfl

theorem closeRow_load (r : Nat) (t : Option Byte) : closeRow r t (s.load sp l) = (closeRow r t s).load sp l := by
  cases t with
  | none => exact decodeRow_load s sp l r
  | some b => exact decodeRow_load (latchSecond b s) sp l r

theorem pOdd_load (r : Nat) : pOdd r (s.load sp l) = (pOdd r s).load sp l := by
  simp only [pOdd, rxTake_load, closeSync_load, closeRow_load, load_cfg]
  split <;> split <;> rfl

theorem pEven_load : pEven (s.load sp l) = (pEven s).load sp l := by
  simp only [pEven, rxTake_load]
  cases (rxTake s).1 <;> rfl

theorem pSlot_load (n : Nat) : pSlot n (s.load sp l) = (pSlot n s).load sp l := by
  unfold pSlot
  rw [load_cfg]
  cases slotWork s.cfg.nrow n with
  | syncTx => rfl
  | odd r => exact pOdd_load s sp l r
  | even r => exact pEven_load s sp l
  | scan => exact scan_load s sp l
  | idle => rfl

theorem backSlot_load (n : Nat) : backSlot n (s.load sp l) = (backSlot n s).load sp l := by
  unfold backSlot
  rw [load_keys, load_cfg]
  split
  · rfl
  · cases s.cfg.role with
    | display => exact pSlot_load s sp l n
    | single => rfl
    | input => rfl

/-! ### Through the display -/

theorem serReadByte_load : serReadByte (s.load sp l) = (serReadByte s).load sp l := by
  unfold serReadByte
  rw [load_profile]
  cases s.profile.layout <;>
    simp only [serGfx1, serGfx8, serAttr, serText, memFetch_load, load_video, load_profile] <;> rfl

theorem serReadRow_load (n : Nat) : serReadRow n (s.load sp l) = (serReadRow n s).load sp l := by
  induction n generalizing s with
  | zero => rfl
  | succ n ih => rw [serReadRow, serReadByte_load, ih]; rfl

theorem render_load : render (s.load sp l) = (render s).load sp l := by
  simp only [render, load_profile, load_video, load_cfg, load_withVideo, serReadRow_load]
  split_ifs
  · cases s.cfg.serKind <;> rfl
  · rfl

theorem lineAction_load (c : LineClass) : lineAction c (s.load sp l) = (lineAction c s).load sp l := by
  cases c <;> simp only [lineAction, load_video, load_profile, load_withVideo, emit_load, render_load, backSlot_load]

theorem advanceCounters_load : advanceCounters (s.load sp l) = (advanceCounters s).load sp l := by
  unfold advanceCounters
  rw [load_video, load_profile]
  split <;> rfl

theorem scanlineHandler_load : scanlineHandler (s.load sp l) = (scanlineHandler s).load sp l := by
  have ha : abandonRow (advanceCounters (enterScanline (s.load sp l)))
      = (abandonRow (advanceCounters (enterScanline s))).load sp l :=
    congrArg abandonRow (advanceCounters_load (enterScanline s) sp l)
  unfold scanlineHandler
  rw [ha]
  exact lineAction_load _ sp l _

theorem rspByte_load (c : Byte) : rspByte c (s.load sp l) = (rspByte c s).load sp l := by
  unfold rspByte
  rw [load_cfg]
  split_ifs <;> rfl

/-! ### Through the guards -/

section
variable {s sp l} {k k' : Answer} (h : k' = loadAnswer sp l k)
include h

theorem hostStep_load : hostStep (s.load sp l) k' = loadAnswer sp l (hostStep s k) := by
  have hd : hasDisplay (s.load sp l) = hasDisplay s := rfl
  unfold hostStep
  rw [h, hd, load_host]
  split_ifs <;> rfl

theorem needDisplay_load : needDisplay (s.load sp l) k' = loadAnswer sp l (needDisplay s k) := by
  unfold needDisplay
  rw [h, load_host]
  split <;> rfl

theorem needKeys_load : needKeys (s.load sp l) k' = loadAnswer sp l (needKeys s k) := by
  unfold needKeys
  rw [h, load_host]
  split <;> rfl

theorem linkStep_load : linkStep (s.load sp l) k' = loadAnswer sp l (linkStep s k) := by
  have hl : hasLink (s.load sp l) = hasLink s := rfl
  unfold linkStep
  rw [h, hl]
  split <;> rfl

theorem displayStep_load : displayStep (s.load sp l) k' = loadAnswer sp l (displayStep s k) := by
  have hd : hasDisplay (s.load sp l) = hasDisplay s := rfl
  unfold displayStep
  rw [h, hd, load_video]
  split_ifs <;> rfl

end

/-! ### Through the meanings -/

theorem execDispInit_load (m : Byte) : execDispInit m (s.load sp l) = loadAnswer sp l (execDispInit m s) := by
  refine hostStep_load ?_
  rw [load_video, load_cfg]
  split_ifs <;> rfl

theorem execKeyInit_load : execKeyInit (s.load sp l) = loadAnswer sp l (execKeyInit s) := by
  have hp : keyInitProtocol (s.load sp l) = (keyInitProtocol s).load sp l := by
    unfold keyInitProtocol
    rw [load_cfg, memWriteFrom_load]
    rfl
  refine hostStep_load ?_
  rw [load_keys, load_cfg, hp]
  split
  · rfl
  · cases s.cfg.role <;> rfl

theorem hostWrite_load (m : Space) (limit : Nat) (a : BitVec 16) (v : Byte) :
    hostWrite m limit a v (s.load sp l) = loadAnswer sp l (hostWrite m limit a v s) := by
  refine hostStep_load ?_
  rw [memWrite_load]
  split <;> rfl

theorem hostRead_load (m : Space) (limit : Nat) (a : BitVec 16) :
    hostRead m limit a (s.load sp l) = loadAnswer sp l (hostRead m limit a s) := by
  refine hostStep_load ?_
  rw [memRead_load]
  split
  · cases memRead s m a.toNat <;> rfl
  · rfl

theorem execTick_load : execTick (s.load sp l) = loadAnswer sp l (execTick s) := by
  refine displayStep_load (congrArg Host.Outcome.next ?_)
  calc pollWait (scanlineHandler (raiseScanline (s.load sp l)))
      = pollWait ((scanlineHandler (raiseScanline s)).load sp l) :=
        congrArg pollWait (scanlineHandler_load (raiseScanline s) sp l)
    _ = (pollWait (scanlineHandler (raiseScanline s))).load sp l := pollWait_load _ sp l

theorem execSerRead_load : execSerRead (s.load sp l) = loadAnswer sp l (execSerRead s) := by
  have hd : hasDisplay (s.load sp l) = hasDisplay s := rfl
  unfold execSerRead
  rw [serReadByte_load, hd, load_cfg, load_video]
  split_ifs <;> rfl

theorem execKeyTick_load : execKeyTick (s.load sp l) = loadAnswer sp l (execKeyTick s) := by
  unfold execKeyTick
  simp only [enterHandler_eq, leaveHandler_eq, scan_load, load_cfg, load_keys]
  split_ifs <;> rfl

theorem lineClassStep_load (c : LineClass) : lineClassStep c (s.load sp l) = loadAnswer sp l (lineClassStep c s) := by
  have hc : (s.load sp l).lineClass = s.lineClass := rfl
  refine displayStep_load ?_
  rw [hc, lineAction_load]
  split <;> rfl

theorem execRspStep_load : execRspStep (s.load sp l) = loadAnswer sp l (execRspStep s) := by
  refine linkStep_load ?_
  rw [load_rsp]
  cases s.rsp.rxqI with
  | nil => rfl
  | cons c tl => exact congrArg Host.Outcome.next (rspByte_load (s.withRsp { s.rsp with rxqI := tl }) sp l c)

theorem execSyncAck_load : execSyncAck (s.load sp l) = loadAnswer sp l (execSyncAck s) := by
  have hs : (s.load sp l).slotInProgress = s.slotInProgress := rfl
  unfold execSyncAck
  rw [hs]
  split <;> rfl

theorem execColdata_load (raw : BitVec 5) : execColdata raw (s.load sp l) = loadAnswer sp l (execColdata raw s) := by
  have hs : (s.load sp l).slotInProgress = s.slotInProgress := rfl
  unfold execColdata
  rw [hs, load_cfg]
  split <;> rfl

theorem execEnvKeyIn_load (i : Byte) (v : Bool) :
    execEnvKeyIn i v (s.load sp l) = loadAnswer sp l (execEnvKeyIn i v s) := by
  unfold execEnvKeyIn
  rw [load_cfg]
  split_ifs <;> rfl

/-- The operations but HOST, which is one of them by `exec_host`. -/
theorem exec_load_of_ne_host {i : Instr} (hi : ∀ w, i ≠ .host w) :
    exec i (s.load sp l) = loadAnswer sp l (exec i s) := by
  cases i
  case host w => exact absurd rfl (hi w)
  case sync | rowHigh | rowLow | envColIn => exact linkStep_load rfl
  case syncAck => exact execSyncAck_load s sp l
  case coldata raw => exact execColdata_load s sp l raw
  case keyGet | joyGet => exact hostStep_load (needKeys_load (popKey_load s sp l))
  case keyPressed | keyFlush => exact hostStep_load (needKeys_load rfl)
  case waitVSync => exact hostStep_load (by rw [load_host, load_withHost, pollWait_load]; rfl)
  case dispIsVSync | rdScanline | rdFrame => exact hostStep_load (needDisplay_load rfl)
  case dispInit m => exact execDispInit_load s sp l m
  case keyInit => exact execKeyInit_load s sp l
  case dispTerm | keyTerm | noKey => exact hostStep_load rfl
  case fbWrite a v | atWrite a v => exact hostWrite_load s sp l _ _ a v
  case fbRead a | atRead a => exact hostRead_load s sp l _ _ a
  case tick => exact execTick_load s sp l
  case serRead => exact execSerRead_load s sp l
  case keyTick => exact execKeyTick_load s sp l
  case dlvD2I | dropD2I | garbleD2I =>
    refine linkStep_load ?_
    rw [load_link]
    cases s.link.d2i <;> rfl
  case dlvI2D | dropI2D | garbleI2D =>
    refine linkStep_load ?_
    rw [load_link]
    cases s.link.i2d <;> rfl
  case rspStep => exact execRspStep_load s sp l
  case envKeyIn j v => exact execEnvKeyIn_load s sp l j v
  case lcActive | lcFront | lcVSync | lcBack => exact lineClassStep_load s sp l _

/-- No operation reads or writes the script or its code space. -/
theorem exec_load (i : Instr) : exec i (s.load sp l) = loadAnswer sp l (exec i s) := by
  cases i
  case host w =>
    cases hw : decodeH32 w with
    | none => simp only [exec, execHost, hw, loadAnswer]
    | some j =>
      rw [exec_host hw, exec_host hw]
      exact exec_load_of_ne_host s sp l fun w' e => by
        subst e
        simpa [isHostOp, Instr.space] using isHostOp_decodeH32 hw
  all_goals exact exec_load_of_ne_host s sp l fun _ e => by cases e

theorem runAll_load (is : List Instr) : runAll is (s.load sp l) = loadAnswer sp l (runAll is s) := by
  induction is generalizing s with
  | nil => rfl
  | cons i is ih =>
    unfold runAll
    rw [exec_load]
    cases exec i s with
    | next t => exact ih t
    | fault f => rfl
    | refused r => rfl

end

/-! ### Running a script -/

/-- A step of a state whose script begins with an event's encoding executes the event before the rest of the script. -/
theorem step_load_encode (s : State) {i : Instr} (hs : i.space = .script) (hw : i.wellFormed = true) (l : List Byte) :
    step (s.load .script (encode s.cfg.codes i ++ l)) = loadAnswer .script l (exec i s) := by
  have hf : fetch (s.load .script (encode s.cfg.codes i ++ l)) = .ok (i, l) := decodeScript_encode s.cfg.codes hs hw
  rw [step, hf]
  exact exec_load s .script l i

section
variable (M : Host.Core) (n : Nat) {s t : M.State}

/-! A run of `n + 1` steps is a step and, where it answers a next state, a run of `n` steps. -/

theorem core_run_of_next (h : M.step s = .next t) : M.run (n + 1) s = M.run n t := by rw [Host.Core.run, h]

theorem core_run_of_fault {f : M.Fault} (h : M.step s = .fault f) : M.run (n + 1) s = .fault f := by
  rw [Host.Core.run, h]

theorem core_run_of_refused {r : M.Refusal} (h : M.step s = .refused r) : M.run (n + 1) s = .refused r := by
  rw [Host.Core.run, h]

end

/-- Stepping through an encoded script before any other script `l` runs its statements and leaves `l`. -/
theorem run_load_encodeScript (is : List Instr) (s : State) (l : List Byte)
    (h : ∀ i ∈ is, i.space = .script ∧ i.wellFormed = true) :
    Sys2Proof.core.run is.length (s.load .script (encodeScript s.cfg.codes is ++ l)) =
      loadAnswer .script l (runAll is s) := by
  induction is generalizing s with
  | nil => rfl
  | cons i is ih =>
    obtain ⟨⟨hs, hw⟩, htl⟩ := List.forall_mem_cons.mp h
    have hstep : step (s.load .script (encodeScript s.cfg.codes (i :: is) ++ l)) =
        loadAnswer .script (encodeScript s.cfg.codes is ++ l) (exec i s) := by
      rw [encodeScript, List.append_assoc]
      exact step_load_encode s hs hw _
    rw [List.length_cons, runAll]
    cases hi : exec i s <;> rw [hi] at hstep
    case next t =>
      have hc : t.cfg = s.cfg := (configurationNeverChanges i s t hi).1
      refine (core_run_of_next Sys2Proof.core _ hstep).trans ?_
      rw [← hc]
      exact ih t htl
    case fault f => exact core_run_of_fault Sys2Proof.core _ hstep
    case refused r => exact core_run_of_refused Sys2Proof.core _ hstep

end Sys2Proof.Machine

section
open Sys2Proof Sys2Proof.Machine

/-- Settles O6: the statements run as they would without a script, which none of them reads or writes. -/
theorem scriptRunsItsStatements : Obligations.ScriptRunsItsStatements := by
  intro is s hsp h
  have hs : s.load .script s.sched.script = s := by rw [← hsp, load_self]
  have hload : { s with sched := { s.sched with script := encodeScript s.cfg.codes is ++ s.sched.script } } =
      s.load .script (encodeScript s.cfg.codes is ++ s.sched.script) := by rw [← hsp]; rfl
  rw [hload, run_load_encodeScript is s s.sched.script h, ← runAll_load, hs]

end
end

section
/-! PROOF. The display (40_clock_serializer_renderer.md): the steps that do not exist, the counters TICK advances, the byte a
SER_READ shifts out, and what the TICK of an active line shows with either kind of serialiser. -/

namespace Sys2Proof.Machine

open Sys2Proof

/-! ### The guards on a state that fails them -/

section
variable {s : State}

theorem linkStep_of_link (h : s.cfg.role ≠ .single) (k : Answer) : linkStep s k = k := if_pos (by simpa [hasLink] using h)

theorem hostStep_of_input (h : s.cfg.role = .input) (k : Answer) : hostStep s k = .refused .noSuchAgent :=
  if_pos (by simp [hasDisplay, h])

/-- The input chip has no host (45_host_api.md R264). -/
theorem exec_host_of_input {i : Instr} (h : s.cfg.role = .input) (hi : isHostOp i = true) :
    exec i s = .refused .noSuchAgent := by
  cases i
  case keyGet | joyGet | keyPressed | keyFlush | waitVSync | dispIsVSync | dispInit | dispTerm | keyInit | keyTerm
      | rdScanline | rdFrame | fbWrite | fbRead | atWrite | atRead => exact hostStep_of_input h _
  all_goals simp [isHostOp, Instr.space] at hi

end

/-! ### Line classes by line number (41_blanking_scheduler.md R150) -/

section
variable (p : VideoProfile) (l : Nat)

theorem classify_eq_active : classify p l = .active ↔ l < p.vActive := by
  unfold classify fpStart
  split_ifs <;> simp_all

theorem classify_eq_front : classify p l = .front ↔ p.vActive ≤ l ∧ l < p.vActive + p.vFp := by
  unfold classify fpStart vsStart
  split_ifs <;> simp <;> omega

theorem classify_eq_vsync :
    classify p l = .vsync ↔ p.vActive + p.vFp ≤ l ∧ l < p.vActive + p.vFp + p.vSync := by
  unfold classify fpStart vsStart bpStart
  split_ifs <;> simp <;> omega

theorem classify_eq_back : classify p l = .back ↔ p.vActive + p.vFp + p.vSync ≤ l := by
  unfold classify fpStart vsStart bpStart
  split_ifs <;> simp <;> omega

end

/-- Step 1 of TICK wraps SL at V_TOTAL and counts the wraps in FR (R122). -/
theorem advanceCounters_wrap {s : State} (h : s.video.sl.toNat = s.profile.vTotal - 1) :
    (advanceCounters s).video.sl = 0 ∧ (advanceCounters s).video.fr = s.video.fr + 1 := by
  rw [advanceCounters, if_pos h]
  exact ⟨rfl, rfl⟩

theorem advanceCounters_next {s : State} (h : s.video.sl.toNat ≠ s.profile.vTotal - 1) :
    (advanceCounters s).video.sl = s.video.sl + 1 ∧ (advanceCounters s).video.fr = s.video.fr := by
  rw [advanceCounters, if_neg h]
  exact ⟨rfl, rfl⟩

/-! ### The element a SER_READ shifts out -/

/-- The state after `n` free bytes more have been drawn. -/
def State.drawn (s : State) (n : Nat) : State := s.withSched { s.sched with draws := s.sched.draws + n }

/-- How many draws a read of one byte makes: none where the byte holds a value (20_memory.md R80). -/
def drawCost (s : State) (sp : Space) (a : Nat) : Nat := if memRead s sp a = none then 1 else 0

/-- A read that never fails yields the byte, or the next free byte. -/
theorem memFetch_eq (s : State) (sp : Space) (a : Nat) :
    memFetch s sp a = (readOr s sp a s.sched.draws, s.drawn (drawCost s sp a)) := by
  unfold memFetch readOr drawCost
  cases memRead s sp a <;> rfl

section
variable (s : State) (n : Nat) (sp : Space) (a : Nat)

/-! A draw moves the counter only. -/

theorem readOr_drawn (d : Nat) : readOr (s.drawn n) sp a d = readOr s sp a d := rfl

theorem drawCost_drawn : drawCost (s.drawn n) sp a = drawCost s sp a := rfl

theorem drawn_drawn (m : Nat) : (s.drawn n).drawn m = s.drawn (n + m) := by simp [State.drawn, Nat.add_assoc]

theorem drawn_draws : (s.drawn n).sched.draws = s.sched.draws + n := rfl

end

theorem readOr_some {s : State} {sp : Space} {a : Nat} {v : Byte} (h : memRead s sp a = some v) (d : Nat) :
    readOr s sp a d = v := by
  rw [readOr, h, Option.getD_some]

theorem readOr_none {s : State} {sp : Space} {a : Nat} (h : memRead s sp a = none) (d : Nat) :
    readOr s sp a d = freeByte d := by
  rw [readOr, h, Option.getD_none]

theorem drawCost_some {s : State} {sp : Space} {a : Nat} {v : Byte} (h : memRead s sp a = some v) : drawCost s sp a = 0 := by
  rw [drawCost, h, if_neg (Option.some_ne_none v)]

theorem drawCost_none {s : State} {sp : Space} {a : Nat} (h : memRead s sp a = none) : drawCost s sp a = 1 := if_pos h

theorem blanks_succ (s : State) (sp : Space) (off : Nat → Nat) (n : Nat) :
    blanks s sp off (n + 1) = blanks s sp off n + drawCost s sp (off n) := by
  unfold blanks drawCost
  rw [List.range_succ, List.filter_append, List.length_append]
  cases h : memRead s sp (off n) <;> simp [h]

/-- What one SER_READ shifts out, and the free bytes it draws. -/
structure Element where
  value : Byte
  /-- The byte of AT that covers it (R129). -/
  cover : Option Byte
  pixels : Pixels
  /-- How many bytes it took that nothing has written. -/
  cost : Nat

/-- The element at index `r.idx` of the row in `r`, when `d` free bytes have been drawn (R127 to R130). -/
def elementAt (s : State) (r : Serialiser) (d : Nat) : Element :=
  let b := readOr s .fb (serFbOffset r) d
  let n := drawCost s .fb (serFbOffset r)
  match s.profile.layout with
  | .gfx1 => { value := b, cover := none, pixels := .bits (bitPixels b), cost := n }
  | .gfx8 => { value := b, cover := none, pixels := .level b, cost := n }
  | .attr =>
    let k := serAtOffset s.profile r
    { value := b, cover := some (readOr s .atr k (d + n)), pixels := .bits (bitPixels b), cost := n + drawCost s .atr k }
  | .text =>
    let a := fontOffset s.profile b r.gl
    let g := readOr s .fn a (d + n)
    { value := g, cover := none, pixels := .bits (bitPixels g), cost := n + drawCost s .fn a }

/-- A SER_READ draws what it lacks and shifts the element out. -/
theorem serReadByte_eq (s : State) :
    serReadByte s =
      let e := elementAt s s.video.ser s.sched.draws
      serEmit e.value e.cover e.pixels (s.drawn e.cost) := by
  unfold serReadByte elementAt
  cases s.profile.layout <;>
    simp only [serGfx1, serGfx8, serAttr, serText, memFetch_eq, readOr_drawn, drawCost_drawn, drawn_drawn, drawn_draws]

/-- SER_READ of a busy SPI serialiser, from the element at its index (R127). -/
theorem exec_serRead {s : State} (hrole : s.cfg.role ≠ .input) (hkind : s.cfg.serKind = .spi)
    (hbusy : s.video.ser.busy = true) :
    exec .serRead s =
      let e := elementAt s s.video.ser s.sched.draws
      .next (serEmit e.value e.cover e.pixels (s.drawn e.cost)) := by
  show execSerRead s = _
  simp [execSerRead, hasDisplay, hrole, hkind, hbusy, serReadByte_eq]

/-- A busy serialiser stays busy exactly until its last byte. -/
theorem busyFlag_of_busy {r : Serialiser} (h : r.busy = true) (n : Nat) : busyFlag r n = decide (n ≠ r.len) := by
  unfold busyFlag
  split <;> simp [*]

/-- A read sees the memory and the profile in force only, and so does the element. -/
theorem elementAt_congr {s t : State} (hm : t.mem = s.mem) (hp : t.profile = s.profile) (r : Serialiser) (d : Nat) :
    elementAt t r d = elementAt s r d := by
  have hread (sp : Space) (a : Nat) : memRead t sp a = memRead s sp a := memRead_congr sp a hm fun _ => hp
  have hor (sp : Space) (a d : Nat) : readOr t sp a d = readOr s sp a d := by rw [readOr, readOr, hread]
  have hcost (sp : Space) (a : Nat) : drawCost t sp a = drawCost s sp a := by rw [drawCost, drawCost, hread]
  unfold elementAt
  rw [hp]
  cases s.profile.layout <;> simp only [hor, hcost]

section
variable (v : Byte) (a : Option Byte) (px : Pixels) (s : State)

theorem serEmit_ser :
    (serEmit v a px s).video.ser =
      { s.video.ser with idx := s.video.ser.idx + 1, busy := busyFlag s.video.ser (s.video.ser.idx + 1) } := rfl

theorem serEmit_out : (serEmit v a px s).out = s.out ++ [.pix s.video.ser.line s.video.ser.idx v a px] := rfl

theorem serEmit_draws : (serEmit v a px s).sched.draws = s.sched.draws := rfl

end

/-! ### A row of elements (R131) -/

/-- The serialiser `n` bytes further in its row. -/
def Serialiser.skip (r : Serialiser) (n : Nat) : Serialiser := { r with idx := r.idx + n }

@[simp] theorem Serialiser.skip_gl (r : Serialiser) (n : Nat) : (r.skip n).gl = r.gl := rfl

/-- The draw counter after `n` elements of the row in `r`, when it was `d` before the first. -/
def rowDraws (s : State) (r : Serialiser) (d : Nat) : Nat → Nat
  | 0 => d
  | n + 1 => rowDraws s r d n + (elementAt s (r.skip n) (rowDraws s r d n)).cost

/-- The PIX event of the row's element `n`. -/
def rowEvent (s : State) (r : Serialiser) (d n : Nat) : TraceEvent :=
  let e := elementAt s (r.skip n) (rowDraws s r d n)
  .pix r.line (r.idx + n) e.value e.cover e.pixels

theorem serReadRow_succ (n : Nat) (s : State) : serReadRow (n + 1) s = serReadByte (serReadRow n s) := by
  induction n generalizing s with
  | zero => rfl
  | succ n ih => rw [serReadRow, ih, serReadRow]

theorem serReadRow_profile (n : Nat) (s : State) : (serReadRow n s).profile = s.profile := by
  rw [State.profile, serReadRow_video, (serReadRow_frame n s).1]
  rfl

/-- Reading `n` bytes of the armed row emits their elements in order, as `s` holds them, draws what they lack, and leaves the
index `n` further. -/
theorem serReadRow_reads {s u : State} (hm : u.mem = s.mem) (hp : u.profile = s.profile) (n : Nat) :
    (∃ b, (serReadRow n u).video.ser = { u.video.ser.skip n with busy := b }) ∧
    (serReadRow n u).sched.draws = rowDraws s u.video.ser u.sched.draws n ∧
    (serReadRow n u).out = u.out ++ (List.range n).map (rowEvent s u.video.ser u.sched.draws) := by
  induction n with
  | zero => exact ⟨⟨_, rfl⟩, rfl, (List.append_nil _).symm⟩
  | succ n ih =>
    obtain ⟨⟨b, hser⟩, hdraws, hout⟩ := ih
    have he : elementAt (serReadRow n u) (serReadRow n u).video.ser (serReadRow n u).sched.draws =
        elementAt s (u.video.ser.skip n) (rowDraws s u.video.ser u.sched.draws n) := by
      rw [elementAt_congr (by simp [hm]) ((serReadRow_profile n u).trans hp), hser, hdraws]
      rfl
    rw [serReadRow_succ, serReadByte_eq]
    dsimp only
    rw [he]
    refine ⟨⟨busyFlag (serReadRow n u).video.ser ((serReadRow n u).video.ser.idx + 1), ?_⟩, ?_, ?_⟩
    · rw [serEmit_ser]
      simp only [State.drawn, State.withSched_video, hser]
      rfl
    · rw [serEmit_draws, drawn_draws, hdraws]
      rfl
    · rw [serEmit_out, List.range_succ, List.map_append, ← List.append_assoc, ← hout]
      simp only [State.drawn, State.withSched_video, hser]
      rfl

/-- The serialiser is idle after the last byte of a row. -/
theorem serReadRow_idle {s : State} {n : Nat} (hn : 0 < n) (hlen : s.video.ser.idx + n = s.video.ser.len) :
    (serReadRow n s).video.ser.busy = false := by
  obtain ⟨m, rfl⟩ := Nat.exists_eq_succ_of_ne_zero hn.ne'
  obtain ⟨⟨b, hser⟩, -, -⟩ := serReadRow_reads (s := s) rfl rfl m
  rw [serReadRow_succ, serReadByte_video, hser]
  exact if_pos hlen

section
variable {s : State} {r : Serialiser} {d : Nat} {fb atr : Nat → Nat} (hfb : ∀ n, serFbOffset (r.skip n) = fb n)
include hfb

/-! The row in each layout: the bytes of FB and AT in order, and the draws as the gaps among them. -/

theorem rowDraws_gfx (hl : s.profile.layout = .gfx1 ∨ s.profile.layout = .gfx8) (n : Nat) :
    rowDraws s r d n = d + blanks s .fb fb n := by
  induction n with
  | zero => rfl
  | succ n ih =>
    have hcost : (elementAt s (r.skip n) (rowDraws s r d n)).cost = drawCost s .fb (fb n) := by
      rw [← hfb]
      rcases hl with hl | hl <;> simp only [elementAt, hl]
    rw [rowDraws, hcost, ih, blanks_succ, Nat.add_assoc]

theorem rowEvent_gfx1 (h0 : r.idx = 0) (hl : s.profile.layout = .gfx1) (n : Nat) :
    rowEvent s r d n =
      let v := readOr s .fb (fb n) (d + blanks s .fb fb n)
      .pix r.line n v none (.bits (bitPixels v)) := by
  simp only [rowEvent, h0, Nat.zero_add, rowDraws_gfx hfb (.inl hl), elementAt, hl, hfb]

theorem rowEvent_gfx8 (h0 : r.idx = 0) (hl : s.profile.layout = .gfx8) (n : Nat) :
    rowEvent s r d n =
      let v := readOr s .fb (fb n) (d + blanks s .fb fb n)
      .pix r.line n v none (.level v) := by
  simp only [rowEvent, h0, Nat.zero_add, rowDraws_gfx hfb (.inr hl), elementAt, hl, hfb]

theorem rowDraws_attr (hl : s.profile.layout = .attr) (hatr : ∀ n, serAtOffset s.profile (r.skip n) = atr n) (n : Nat) :
    rowDraws s r d n = d + blanks s .fb fb n + blanks s .atr atr n := by
  induction n with
  | zero => rfl
  | succ n ih =>
    simp only [rowDraws, ih, elementAt, hl, hfb, hatr, blanks_succ]
    omega

theorem rowEvent_attr (h0 : r.idx = 0) (hl : s.profile.layout = .attr)
    (hatr : ∀ n, serAtOffset s.profile (r.skip n) = atr n) (n : Nat) :
    rowEvent s r d n =
      let v := readOr s .fb (fb n) (d + blanks s .fb fb n + blanks s .atr atr n)
      .pix r.line n v (some (readOr s .atr (atr n) (d + blanks s .fb fb (n + 1) + blanks s .atr atr n)))
        (.bits (bitPixels v)) := by
  have hd : d + blanks s .fb fb n + blanks s .atr atr n + drawCost s .fb (fb n) =
      d + blanks s .fb fb (n + 1) + blanks s .atr atr n := by rw [blanks_succ]; omega
  simp only [rowEvent, h0, Nat.zero_add, rowDraws_attr hfb hl hatr, elementAt, hl, hfb, hatr, hd]

/-- A glyph line of the font never draws. -/
theorem rowDraws_text (hl : s.profile.layout = .text) {glyph : Byte → Byte}
    (hglyph : ∀ ch, memRead s .fn (fontOffset s.profile ch r.gl) = some (glyph ch)) (n : Nat) :
    rowDraws s r d n = d + blanks s .fb fb n := by
  induction n with
  | zero => rfl
  | succ n ih =>
    have hcost : (elementAt s (r.skip n) (rowDraws s r d n)).cost = drawCost s .fb (fb n) := by
      simp only [elementAt, hl, hfb, Serialiser.skip_gl, drawCost_some (hglyph _), Nat.add_zero]
    rw [rowDraws, hcost, ih, blanks_succ, Nat.add_assoc]

theorem rowEvent_text (h0 : r.idx = 0) (hl : s.profile.layout = .text) {glyph : Byte → Byte}
    (hglyph : ∀ ch, memRead s .fn (fontOffset s.profile ch r.gl) = some (glyph ch)) (n : Nat) :
    rowEvent s r d n =
      let v := glyph (readOr s .fb (fb n) (d + blanks s .fb fb n))
      .pix r.line n v none (.bits (bitPixels v)) := by
  simp only [rowEvent, h0, Nat.zero_add, rowDraws_text hfb hl hglyph, elementAt, hl, hfb, Serialiser.skip_gl,
    readOr_some (hglyph _)]

end

/-! ### The TICK of an active line (R125, R131, R133) -/

/-- TICK's steps 1 to 3 on an active line: the state RENDER starts from. -/
def activeStart (s : State) : State :=
  emit ((lineStart s).withVideo { (lineStart s).video with vsyncOut := false })
    (.line (advanceCounters s).video.fr (advanceCounters s).video.sl .active false)

@[simp] theorem activeStart_frame (s : State) :
    (activeStart s).cfg = s.cfg ∧ (activeStart s).keys = s.keys ∧ (activeStart s).ini = s.ini ∧
    (activeStart s).link = s.link ∧ (activeStart s).mem = s.mem ∧ (activeStart s).sched = s.sched := by
  simp [activeStart]

@[simp] theorem activeStart_video (s : State) :
    (activeStart s).video.sl = (advanceCounters s).video.sl ∧
    (activeStart s).video.ser = { s.video.ser with busy := false } := by
  simp [activeStart]

@[simp] theorem activeStart_profile (s : State) : (activeStart s).profile = s.profile := lineStart_profile s

@[simp] theorem activeStart_out (s : State) :
    (activeStart s).out =
      s.out ++ [.line (advanceCounters s).video.fr (advanceCounters s).video.sl .active false] := rfl

/-- On an active line TICK renders, and of the host only phase A of WaitVSync changes (R250). -/
theorem exec_tick_active {s : State} (h : DisplayRuns s)
    (hc : classify s.profile (advanceCounters s).video.sl.toNat = .active) :
    exec .tick s = .next ((render (activeStart s)).withHost (polledActive s.host)) := by
  have hclass : (advanceCounters s).lineClass = .active := by rw [State.lineClass, advanceCounters_profile, hc]
  have hblank : isVBlank (lineAction .active (lineStart s)) = false := by
    have ht := tick_lineClass .active s
    rw [State.lineClass, State.profile, (pollWait_frame _).1, (pollWait_frame _).2.1, hclass] at ht
    exact bne_eq_false_iff_eq.mpr ht
  refine (execTick_eq (hasDisplay_of_displayRuns h) h.2).trans ?_
  rw [hclass, pollWait_active hblank, (lineAction_frame _ _).2.2.2]
  rfl

/-- The state with its serialiser armed for the line in progress. -/
def armRow (s : State) : State := s.withVideo { s.video with ser := armSerialiser s.profile s.video.sl s.video.ser }

/-- The serialiser armed for the line a TICK starts (R125). -/
def armedRow (s : State) : Serialiser :=
  armSerialiser s.profile (advanceCounters s).video.sl { s.video.ser with busy := false }

theorem armedRow_fbOffset (s : State) (n : Nat) :
    serFbOffset ((armedRow s).skip n) =
      (advanceCounters s).video.sl.toNat / s.profile.lpr * s.profile.fbPitch + n := by
  simp [serFbOffset, Serialiser.skip, armedRow, armSerialiser, rowFn]

theorem armedRow_atOffset {s : State} (hl : s.profile.layout = .attr) (n : Nat) :
    serAtOffset s.profile ((armedRow s).skip n) =
      (advanceCounters s).video.sl.toNat / s.profile.lpar * s.profile.atPitch + n / s.profile.cellW := by
  simp [serAtOffset, Serialiser.skip, armedRow, armSerialiser, arowFn, hl]

theorem armedRow_gl {s : State} (hl : s.profile.layout = .text) :
    (armedRow s).gl = (advanceCounters s).video.sl.toNat % s.profile.lpr / s.profile.lpg := if_pos hl

theorem armRow_ser (s : State) : (armRow (activeStart s)).video.ser = armedRow s := by
  rw [armedRow, armRow, activeStart_profile, (activeStart_video s).1, (activeStart_video s).2, State.withVideo_video]

theorem render_past {s : State} (h : s.profile.fbRows ≤ rowFn s.profile s.video.sl.toNat) : render s = s :=
  if_neg (Nat.not_lt.mpr h)

theorem render_spi {s : State} (hk : s.cfg.serKind = .spi) (h : rowFn s.profile s.video.sl.toNat < s.profile.fbRows) :
    render s = armRow s := by
  rw [render]
  dsimp only
  rw [if_pos h, hk]
  rfl

theorem render_bitbang {s : State} (hk : s.cfg.serKind = .bitbang)
    (h : rowFn s.profile s.video.sl.toNat < s.profile.fbRows) :
    render s = serReadRow s.profile.fbPitch (armRow s) := by
  rw [render]
  dsimp only
  rw [if_pos h, hk]
  rfl

/-- A bit-banged serialiser shows the whole row inside the TICK and is idle again (R131, R137). -/
theorem render_bitbang_row {s : State} (hk : s.cfg.serKind = .bitbang)
    (hrow : (advanceCounters s).video.sl.toNat / s.profile.lpr < s.profile.fbRows) (hpitch : 0 < s.profile.fbPitch) :
    (render (activeStart s)).video.ser.busy = false ∧ (render (activeStart s)).video.ser.idx = s.profile.fbPitch ∧
    (render (activeStart s)).sched.draws = rowDraws s (armedRow s) s.sched.draws s.profile.fbPitch ∧
    (render (activeStart s)).out =
      s.out ++ [.line (advanceCounters s).video.fr (advanceCounters s).video.sl .active false] ++
        (List.range s.profile.fbPitch).map (rowEvent s (armedRow s) s.sched.draws) := by
  rw [render_bitbang (by simpa using hk) (by simpa [rowFn] using hrow), activeStart_profile]
  obtain ⟨⟨b, hser⟩, hdraws, hout⟩ :=
    serReadRow_reads (s := s) (u := armRow (activeStart s)) rfl (activeStart_profile s) s.profile.fbPitch
  rw [armRow_ser] at hser hdraws hout
  refine ⟨serReadRow_idle hpitch ?_, ?_, hdraws, hout⟩
  · rw [armRow_ser]
    exact Nat.zero_add _
  · rw [hser]
    exact Nat.zero_add _

end Sys2Proof.Machine

/-! ### The statements -/

section
open Sys2Proof Sys2Proof.Machine

/-- Settles O50: each guard refuses where the statement's premise fails it. -/
theorem disabledStepsDoNotExist : Obligations.DisabledStepsDoNotExist := by
  intro s x
  refine ⟨fun hrole hen => ?_, fun hrole hkind hbusy => ?_, fun hrole hen => ?_, fun hrole hq => ?_, fun hrole hq => ?_,
    fun hrole hq => ?_, fun i hrole hi => exec_host_of_input hrole hi⟩
  · show execTick s = _
    simp [execTick, displayStep, hasDisplay, hrole, hen]
  · show execSerRead s = _
    simp [execSerRead, hasDisplay, hrole, hkind, hbusy]
  · show execKeyTick s = _
    simp [execKeyTick, hrole, hen]
  · exact (linkStep_of_link hrole _).trans (by rw [hq])
  · exact ⟨(linkStep_of_link hrole _).trans (by rw [hq]), (linkStep_of_link hrole _).trans (by rw [hq]),
      (linkStep_of_link hrole _).trans (by rw [hq])⟩
  · exact ⟨(linkStep_of_link hrole _).trans (by rw [hq]), (linkStep_of_link hrole _).trans (by rw [hq]),
      (linkStep_of_link hrole _).trans (by rw [hq])⟩

/-- Settles O25: TICK's line begins with its LINE event, and its class is that of the advanced counters. -/
theorem tickAdvancesTheCounters : Obligations.TickAdvancesTheCounters := by
  intro s h
  let t := pollWait (lineAction (advanceCounters s).lineClass (lineStart s))
  have hclass : t.lineClass = (advanceCounters s).lineClass := tick_lineClass _ s
  have hsl : t.video.sl = (advanceCounters s).video.sl := by simp [t]
  have hfr : t.video.fr = (advanceCounters s).video.fr := by simp [t]
  have hvs : t.video.vsyncOut = (t.lineClass == .vsync) := by rw [hclass]; simp [t, vsyncFlag]
  have hline : t.lineClass = classify s.profile t.video.sl.toNat := by
    rw [hclass, hsl, State.lineClass, advanceCounters_profile]
  obtain ⟨more, hout⟩ := lineAction_out (advanceCounters s).lineClass (lineStart s)
  refine ⟨t, more, execTick_eq (hasDisplay_of_displayRuns h) h.2, fun hw => ?_, fun hw => ?_, ?_, ?_, ?_, hvs, ?_, ?_, ?_,
    ?_, ?_, ?_, ?_⟩
  · rw [hsl, hfr]; exact advanceCounters_wrap hw
  · rw [hsl, hfr]; exact advanceCounters_next hw
  · simpa [t] using h.2
  · simp [t]
  · simp [t]
  · rw [hvs, beq_iff_eq, hline]; exact classify_eq_vsync _ _
  · rw [hline]; exact classify_eq_active _ _
  · rw [hline]; exact classify_eq_front _ _
  · rw [hline]; exact classify_eq_back _ _
  · rw [hclass, hsl, hfr]
    simpa [t, vsyncFlag] using hout
  · simp [t]
  · simp [t]

/-- Settles O34: a SER_READ emits the element at its index (`exec_serRead`), each of its bytes as written or drawn. -/
theorem serReadShiftsOneElement : Obligations.SerReadShiftsOneElement := by
  rintro s r fb atr d after hrole hkind rfl hbusy rfl rfl rfl hafter
  have hemit (v : Byte) (a : Option Byte) (px : Pixels) (n : Nat) : serEmit v a px (s.drawn n) = after v a px n := by
    rw [hafter, ← busyFlag_of_busy hbusy]
    rfl
  have hexec := exec_serRead hrole hkind hbusy
  simp only [hemit] at hexec
  refine ⟨⟨_, hexec⟩, fun hl => ⟨fun b hb => ?gfx1, fun hb => ?gfx1Free⟩,
    fun hl => ⟨fun b hb => ?gfx8, fun hb => ?gfx8Free⟩,
    fun hl => ⟨fun b a hb ha => ?attr, fun b hb ha => ?attrFree, fun a hb ha => ?fbFree, fun hb ha => ?bothFree⟩,
    fun hl => ⟨fun ch g hb hg => ?text, fun g hb hg => ?textFree⟩,
    fun b => ⟨bitPixels_length b, fun n hn => ?pixels⟩⟩
  case pixels => simp [bitPixels, hn]
  all_goals
    rw [hexec]
    simp only [elementAt, hl, serFbOffset, serAtOffset, fontOffset]
  case gfx1 | gfx8 => simp only [readOr_some hb, drawCost_some hb]
  case gfx1Free | gfx8Free => simp only [readOr_none hb, drawCost_none hb]
  case attr => simp only [readOr_some hb, drawCost_some hb, readOr_some ha, drawCost_some ha]
  case attrFree => simp only [readOr_some hb, drawCost_some hb, readOr_none ha, drawCost_none ha, Nat.add_zero,
      Nat.zero_add]
  case fbFree => simp only [readOr_none hb, drawCost_none hb, readOr_some ha, drawCost_some ha]
  case bothFree => simp only [readOr_none hb, drawCost_none hb, readOr_none ha, drawCost_none ha]
  case text => simp only [readOr_some hb, drawCost_some hb, readOr_some hg, drawCost_some hg]
  case textFree => simp only [readOr_none hb, drawCost_none hb, readOr_some hg, drawCost_some hg]

/-- Settles O28: RENDER arms an SPI serialiser, and does nothing past the last row. -/
theorem activeTickArmsTheSerialiser : Obligations.ActiveTickArmsTheSerialiser := by
  rintro s p l hrun rfl rfl hc
  have hspi (hkind : s.cfg.serKind = .spi) (hrow : (advanceCounters s).video.sl.toNat / s.profile.lpr < s.profile.fbRows) :
      render (activeStart s) = armRow (activeStart s) :=
    render_spi (by simpa using hkind) (by simpa [rowFn] using hrow)
  have hpast (hrow : s.profile.fbRows ≤ (advanceCounters s).video.sl.toNat / s.profile.lpr) :
      render (activeStart s) = activeStart s :=
    render_past (by simpa [rowFn] using hrow)
  refine ⟨_, exec_tick_active hrun hc, fun hkind hrow => ?_, fun hrow => ?_, fun hno => ?_, ?_, ?_, ?_, ?_, rfl⟩
  · rw [hspi hkind hrow, State.withHost_video, armRow_ser]
    exact ⟨rfl, rfl, rfl, rfl, rfl, fun hl => if_pos hl, fun hl => if_pos hl⟩
  · rw [hpast hrow]
    simp
  · have hquiet : render (activeStart s) = activeStart s ∨ render (activeStart s) = armRow (activeStart s) := by
      rcases Nat.lt_or_ge ((advanceCounters s).video.sl.toNat / s.profile.lpr) s.profile.fbRows with hlt | hge
      · exact .inr (hspi (hno.resolve_right (Nat.not_le.mpr hlt)) hlt)
      · exact .inl (hpast hge)
    rcases hquiet with e | e <;> rw [e] <;> exact ⟨rfl, rfl⟩
  all_goals simp

/-- Settles O43: the TICK shows the row it armed (`render_bitbang_row`), and in each layout its elements are the row's
bytes. -/
theorem bitbangLineShowsItsRow : Obligations.BitbangLineShowsItsRow := by
  rintro s p l fb atr d lead hrun hkind rfl rfl hc hrow hpitch rfl rfl rfl rfl
  obtain ⟨hidle, hidx, hdraws, hout⟩ := render_bitbang_row hkind hrow hpitch
  have hfb := armedRow_fbOffset s
  have hshow {f : Nat → TraceEvent} (h : ∀ n, rowEvent s (armedRow s) s.sched.draws n = f n) :
      (render (activeStart s)).out =
        s.out ++ [.line (advanceCounters s).video.fr (advanceCounters s).video.sl .active false] ++
          (List.range s.profile.fbPitch).map f :=
    hout.trans (by rw [funext h])
  refine ⟨_, exec_tick_active hrun hc, hidle, hidx, by simp, by simp, by simp, by simp, rfl, fun hl => ?_, fun hl => ?_,
    fun hl => ?_, fun glyph hl hglyph => ?_⟩
  · exact ⟨hdraws.trans (rowDraws_gfx hfb (.inl hl) _), hshow (rowEvent_gfx1 hfb rfl hl)⟩
  · exact ⟨hdraws.trans (rowDraws_gfx hfb (.inr hl) _), hshow (rowEvent_gfx8 hfb rfl hl)⟩
  · have hatr := armedRow_atOffset hl
    exact ⟨hdraws.trans (rowDraws_attr hfb hl hatr _), hshow (rowEvent_attr hfb rfl hl hatr)⟩
  · rw [← armedRow_gl hl] at hglyph
    exact ⟨hdraws.trans (rowDraws_text hfb hl hglyph _), hshow (rowEvent_text hfb rfl hl hglyph)⟩

end
end

section
/-! PROOF. The lines of blanking (41_blanking_scheduler.md): the TICK of a front-porch, VSYNC or back-porch line, the slots that
carry no work, and the scan slot. -/

namespace Sys2Proof.Machine

open Sys2Proof

section
variable {s t : State}

/-! ### The TICK of a blank line -/

/-- The state in which the class's own action starts on a line of class `c`: VSYNC_OUT set and the LINE event traced (R121). -/
def lineOpened (c : LineClass) (s : State) : State :=
  emit (s.withVideo { s.video with vsyncOut := vsyncFlag c }) (.line s.video.fr s.video.sl c (vsyncFlag c))

@[simp] theorem lineOpened_frame (c : LineClass) (s : State) :
    (lineOpened c s).cfg = s.cfg ∧ (lineOpened c s).keys = s.keys ∧ (lineOpened c s).ini = s.ini ∧
    (lineOpened c s).rsp = s.rsp ∧ (lineOpened c s).link = s.link ∧ (lineOpened c s).mem = s.mem ∧
    (lineOpened c s).inp = s.inp ∧ (lineOpened c s).host = s.host ∧ (lineOpened c s).sched = s.sched := by
  simp [lineOpened]

@[simp] theorem lineOpened_video (c : LineClass) (s : State) :
    (lineOpened c s).video = { s.video with vsyncOut := vsyncFlag c } := rfl

@[simp] theorem lineOpened_out (c : LineClass) (s : State) :
    (lineOpened c s).out = s.out ++ [.line s.video.fr s.video.sl c (vsyncFlag c)] := rfl

theorem lineAction_front (s : State) : lineAction .front s = lineOpened .front s := rfl

theorem lineAction_vsync (s : State) : lineAction .vsync s = lineOpened .vsync s := rfl

theorem lineAction_back (s : State) :
    lineAction .back s = backSlot (slotOf s.profile s.video.sl.toNat) (lineOpened .back s) := rfl

/-- On a line of any class but ACTIVE the poll at the end of TICK ends phase B of WaitVSync (R250, R105). -/
theorem exec_tick_blank {c : LineClass} (h : DisplayRuns s) (hc : (advanceCounters s).lineClass = c) (hne : c ≠ .active) :
    exec .tick s = .next ((lineAction c (lineStart s)).withHost (polledBlank s.host)) := by
  have hline : (lineAction c (lineStart s)).lineClass = c := by simpa [State.lineClass, State.profile] using hc
  have hblank : isVBlank (lineAction c (lineStart s)) = true := bne_iff_ne.mpr (hline.trans_ne hne)
  have hhost : (lineAction c (lineStart s)).host = s.host := by simp
  refine (execTick_eq (hasDisplay_of_displayRuns h) h.2).trans ?_
  rw [hc, pollWait_blank hblank, hhost]
  rfl

/-- A back-porch line runs its slot (R157). -/
theorem exec_tick_back (h : DisplayRuns s) (hc : (advanceCounters s).lineClass = .back) :
    exec .tick s = .next
      ((backSlot (slotOf s.profile (advanceCounters s).video.sl.toNat) (lineOpened .back (lineStart s))).withHost
        (polledBlank s.host)) := by
  have hsl : (lineStart s).video.sl = (advanceCounters s).video.sl := by simp
  rw [exec_tick_blank h hc (by decide), lineAction_back, lineStart_profile, hsl]

/-- Before the last line of a frame TICK's step 1 only moves SL on by one (R122). -/
theorem advanceCounters_lineClass_next (hw : s.video.sl.toNat ≠ s.profile.vTotal - 1) :
    (advanceCounters s).lineClass = classify s.profile (s.video.sl + 1).toNat := by
  rw [State.lineClass, advanceCounters_profile, (advanceCounters_next hw).1]

/-- The whole state after a TICK onto a line without work, before the last line of a frame. -/
theorem lineOpened_lineStart_next (c : LineClass) (hw : s.video.sl.toNat ≠ s.profile.vTotal - 1) :
    (lineOpened c (lineStart s)).withHost (polledBlank s.host) =
      { s with
        video :=
          { s.video with
            sl := s.video.sl + 1, tickPend := false, ser := { s.video.ser with busy := false }, vsyncOut := vsyncFlag c }
        host := polledBlank s.host
        out := s.out ++ [.line s.video.fr (s.video.sl + 1) c (vsyncFlag c)] } := by
  rw [lineStart, advanceCounters, if_neg hw]
  rfl

/-! ### The slots (R157 to R159) -/

/-- BACK_SLOT does nothing while KEY_EN is 0, on a single chip, and after the scan slot. -/
theorem backSlot_idle {n : Nat} (h : s.keys.keyEn = false ∨ s.cfg.role = .single ∨ 2 * s.cfg.nrow + 2 < n) :
    backSlot n s = s := by
  unfold backSlot
  obtain hoff | hsingle | hpast := h
  · rw [hoff]
    rfl
  · rw [hsingle]
    exact ite_self s
  · have hslot : pSlot n s = s := by
      rw [pSlot, slotWork, if_neg (by omega), if_pos hpast]
    rw [hslot]
    split
    · rfl
    · split <;> rfl

/-- A display chip that scans its keys runs its protocol's slot. -/
theorem backSlot_display (n : Nat) (hr : s.cfg.role = .display) (hk : s.keys.keyEn = true) : backSlot n s = pSlot n s := by
  rw [backSlot, hk, hr]
  rfl

/-- The TICK of slot `n` runs P_SLOT of it on the opened line. -/
theorem exec_tick_slot {n : Nat} (h : SlotComes s n) :
    exec .tick s = .next ((pSlot n (lineOpened .back (lineStart s))).withHost (polledBlank s.host)) := by
  obtain ⟨hr, hd, hk, hc, hn⟩ := h
  have hrun : DisplayRuns s := ⟨by simp [hr], hd⟩
  rw [exec_tick_back hrun hc, hn, backSlot_display n (by simpa using hr) (by simpa using hk)]

theorem slotWork_scan (nrow : Nat) : slotWork nrow (2 * nrow + 2) = .scan := by
  rw [slotWork, if_neg (by omega), if_neg (by omega), if_pos rfl]

theorem pSlot_scan (s : State) : pSlot (2 * s.cfg.nrow + 2) s = scan s := by
  rw [pSlot, slotWork_scan]

/-! ### The scan step sees the configuration, the keys and the memory -/

theorem memWrite_mem_congr (hm : t.mem = s.mem) (sp : Space) (a : Nat) (v : Byte) :
    (memWrite t sp a v).mem = (memWrite s sp a v).mem := by
  cases sp <;> simp [memWrite, hm]

theorem qPush_congr (hc : t.cfg = s.cfg) (hk : t.keys = s.keys) (hm : t.mem = s.mem) (c : Byte) :
    (qPush t c).keys = (qPush s c).keys ∧ (qPush t c).mem = (qPush s c).mem := by
  have hfull : queueFull t = queueFull s := by rw [queueFull, queueFull, hc, hk]
  obtain ⟨hs, es⟩ | ⟨hs, es⟩ := qPush_cases s c <;> obtain ⟨ht, et⟩ | ⟨ht, et⟩ := qPush_cases t c
  · rw [es, et]
    exact ⟨hk, hm⟩
  · simp [hfull, hs] at ht
  · simp [hfull, hs] at ht
  · rw [es, et, hc, hk]
    exact ⟨rfl, memWrite_mem_congr hm .qb _ c⟩

theorem debounceKey_congr (hc : t.cfg = s.cfg) (hk : t.keys = s.keys) (hm : t.mem = s.mem) (i : Nat) (a : Bool) :
    (debounceKey i a t).keys = (debounceKey i a s).keys ∧ (debounceKey i a t).mem = (debounceKey i a s).mem := by
  have hkey : keyState t i = keyState s i := by rw [keyState, keyState, hk]
  have hset (k : KeyState) : (setKeyState t i k).keys = (setKeyState s i k).keys := by
    rw [setKeyState_keys, setKeyState_keys, hk]
  rw [debounceKey_eq, debounceKey_eq, hkey, hc]
  split
  · exact qPush_congr (s := setKeyState s i _) (t := setKeyState t i _) hc (hset _) hm _
  · exact ⟨hset _, hm⟩

theorem debounceFrom_congr (hc : t.cfg = s.cfg) (hk : t.keys = s.keys) (hm : t.mem = s.mem) (i : Nat) (l : List Bool) :
    (debounceFrom i l t).keys = (debounceFrom i l s).keys ∧ (debounceFrom i l t).mem = (debounceFrom i l s).mem := by
  induction l generalizing i s t with
  | nil => exact ⟨hk, hm⟩
  | cons a l ih =>
    obtain ⟨hk', hm'⟩ := debounceKey_congr hc hk hm i a
    exact ih (by simpa using hc) hk' hm' (i + 1)

/-- On a display chip a scan step samples the matrix bits KEYMAP assigns, and closes the session (R211, R212). -/
theorem scan_display (hr : s.cfg.role = .display) :
    scan s =
      setSession (debounceFrom 0 ((List.range s.cfg.nkey).map (rawMatrix s.cfg s.ini.matrix)) s) .none 0 0 := by
  have hraw : rawSample s = rawMatrix s.cfg s.ini.matrix := by
    funext i
    rw [rawSample, hr]
  rw [scan, rawVector, hraw]
  exact if_pos hr

end

end Sys2Proof.Machine

section
open Sys2Proof Sys2Proof.Machine

/-- Settles O26: neither class has an action of its own, so the opened line is the whole next state. -/
theorem tickOnFrontAndSyncLines : Obligations.TickOnFrontAndSyncLines := by
  intro s h hw
  refine ⟨fun hc => ?_, fun hc => ?_⟩
  · rw [exec_tick_blank h ((advanceCounters_lineClass_next hw).trans hc) (by decide), lineAction_front,
      lineOpened_lineStart_next .front hw]
    rfl
  · rw [exec_tick_blank h ((advanceCounters_lineClass_next hw).trans hc) (by decide), lineAction_vsync,
      lineOpened_lineStart_next .vsync hw]
    rfl

/-- Settles O27: the slot is idle (`backSlot_idle`), so the opened line is the whole next state. -/
theorem idleBackPorchLines : Obligations.IdleBackPorchLines := by
  intro s h hw hc hidle
  rw [exec_tick_back h ((advanceCounters_lineClass_next hw).trans hc), (advanceCounters_next hw).1,
    backSlot_idle (by simpa using hidle), lineOpened_lineStart_next .back hw]
  rfl

/-- Settles O33: the slot is the scan step on the opened line, which scans the keys and the memory of `s`. -/
theorem scanSlotDebouncesEveryKey : Obligations.ScanSlotDebouncesEveryKey := by
  intro s h
  let start := lineOpened .back (lineStart s)
  let samples := (List.range s.cfg.nkey).map (rawMatrix s.cfg s.ini.matrix)
  have hcfg : start.cfg = s.cfg := by simp [start]
  have hslot : pSlot (2 * s.cfg.nrow + 2) start = setSession (debounceFrom 0 samples start) .none 0 0 := by
    have hscan := scan_display (s := start) (hcfg ▸ h.1)
    rw [← pSlot_scan, hcfg] at hscan
    simpa [start] using hscan
  obtain ⟨hkeys, hmem⟩ := debounceFrom_congr hcfg (by simp [start]) (by simp [start]) 0 samples
  refine ⟨_, _, exec_tick_slot h, rfl, ?_⟩
  rw [hslot]
  refine ⟨hkeys, hmem, ?_⟩
  simp [start, vsyncFlag]

end
end

section
/-! PROOF. The remote protocol (42_remote_io_protocol.md): what is in flight on the link, the responder, the initiator's slots,
and a whole row exchange, from the command at the responder to the columns in MATRIX. -/

namespace Sys2Proof.Machine

open Sys2Proof

section
variable {s t : State}

/-! ### The responder (R183 to R187) -/

theorem rspSync_eq (s : State) :
    rspSync s =
      { s with
        link := { s.link with i2d := s.link.i2d ++ [s.cfg.codes.rspSyncAck] }
        rsp := { s.rsp with rowsel := true }
        out := s.out ++ [.rowsel true] } := rfl

/-- Both data bytes of a row come from one sample of the column pins (R185). -/
theorem rspRow_eq (x : Bool) (s : State) :
    rspRow x s =
      { s with
        link := { s.link with i2d := s.link.i2d ++ [pack0 (columnPins s)] ++ [pack1 (columnPins s)] }
        rsp := { s.rsp with rowsel := x }
        out := s.out ++ [.rowsel x] } := rfl

theorem distinct_iff {k : WireCodes} :
    k.distinct = true ↔ k.cmdSync ≠ k.cmdRowHigh ∧ k.cmdSync ≠ k.cmdRowLow ∧ k.cmdRowHigh ≠ k.cmdRowLow := by
  simp [WireCodes.distinct, and_assoc]

theorem rspByte_sync (s : State) : rspByte s.cfg.codes.cmdSync s = rspSync s := if_pos rfl

/-- The responder tells the row commands apart by their bytes, and ROWSEL becomes 1 for ROW_HIGH only (R185, R186). -/
theorem rspByte_rowCmd (h : s.cfg.codes.distinct = true) (cmd : RowCmd) :
    rspByte (byteOfCmd s.cfg.codes cmd) s = rspRow (cmd == .rowHigh) s := by
  obtain ⟨hsh, hsl, hhl⟩ := distinct_iff.mp h
  cases cmd
  case rowHigh => exact (if_neg hsh.symm).trans (if_pos rfl)
  case rowLow => exact (if_neg hsl.symm).trans ((if_neg hhl.symm).trans (if_pos rfl))

theorem rspByte_reserved {c : Byte} (hs : c ≠ s.cfg.codes.cmdSync) (hh : c ≠ s.cfg.codes.cmdRowHigh)
    (hl : c ≠ s.cfg.codes.cmdRowLow) : rspByte c s = s := by
  rw [rspByte, if_neg hs, if_neg hh, if_neg hl]

/-- RSP_STEP handles the oldest received byte in the state without it (R183). -/
theorem exec_rspStep {c : Byte} {rest : List Byte} (h : s.cfg.role ≠ .single) (hq : s.rsp.rxqI = c :: rest) :
    exec .rspStep s = .next (rspByte c (s.withRsp { s.rsp with rxqI := rest })) := by
  refine (linkStep_of_link h _).trans ?_
  rw [hq]
  rfl

/-- What RSP_STEP does with a row command (R185, R186). -/
theorem exec_rspStep_rowCmd {cmd : RowCmd} {rest : List Byte} (h : s.cfg.role ≠ .single)
    (hd : s.cfg.codes.distinct = true) (hq : s.rsp.rxqI = byteOfCmd s.cfg.codes cmd :: rest) :
    exec .rspStep s = .next
      { s with
        link := { s.link with i2d := s.link.i2d ++ [pack0 (columnPins s)] ++ [pack1 (columnPins s)] }
        rsp := { rowsel := cmd == .rowHigh, rxqI := rest }
        out := s.out ++ [.rowsel (cmd == .rowHigh)] } :=
  (exec_rspStep h hq).trans (congrArg _ (rspByte_rowCmd (s := s.withRsp { s.rsp with rxqI := rest }) hd cmd))

/-! ### The link (R172) -/

theorem exec_dlvD2I {b : Byte} {rest : List Byte} (h : s.cfg.role ≠ .single) (hq : s.link.d2i = b :: rest) :
    exec .dlvD2I s = .next
      { s with link := { s.link with d2i := rest }, rsp := { s.rsp with rxqI := s.rsp.rxqI ++ [b] } } := by
  refine (linkStep_of_link h _).trans ?_
  rw [hq]
  rfl

theorem exec_dlvI2D {b : Byte} {rest : List Byte} (h : s.cfg.role ≠ .single) (hq : s.link.i2d = b :: rest) :
    exec .dlvI2D s = .next
      { s with link := { s.link with i2d := rest }, ini := { s.ini with rxqD := s.ini.rxqD ++ [b] } } := by
  refine (linkStep_of_link h _).trans ?_
  rw [hq]
  rfl

/-! ### The slots of the protocol (R158, R175 to R179) -/

theorem slotWork_odd {nrow r : Nat} (h : r ≤ nrow) : slotWork nrow (2 * r + 1) = .odd r := by
  cases r with
  | zero => rw [slotWork, if_neg (by omega), if_neg (by omega), if_neg (by omega), if_pos rfl]
  | succ r => exact slotWork_odd_succ h

theorem pSlot_zero (s : State) : pSlot 0 s = pSyncTx s := rfl

theorem pSlot_odd {r : Nat} (h : r ≤ s.cfg.nrow) : pSlot (2 * r + 1) s = pOdd r s := by rw [pSlot, slotWork_odd h]

theorem pSlot_even {r : Nat} (h : r < s.cfg.nrow) : pSlot (2 * r + 2) s = pEven s := by rw [pSlot, slotWork_even h]

/-- The TICK of a slot shows nothing, and what it does to keys, memory and protocol is P_SLOT's (R123, R134). -/
theorem exists_tick_slot {n : Nat} (h : SlotComes s n) :
    ∃ t u, exec .tick s = .next t ∧ u = lineOpened .back (lineStart s) ∧
      t.ini = (pSlot n u).ini ∧ t.link = (pSlot n u).link ∧
      t.keys = (pSlot n u).keys ∧ t.mem = (pSlot n u).mem ∧ t.sched = (pSlot n u).sched ∧
      t.video.ser = { s.video.ser with busy := false } ∧
      t.out = s.out ++ [.line (advanceCounters s).video.fr (advanceCounters s).video.sl .back false] ∧
      t.host = polledBlank s.host := by
  refine ⟨_, _, exec_tick_slot h, rfl, rfl, rfl, rfl, rfl, rfl, ?_, ?_, rfl⟩ <;> simp [vsyncFlag]

theorem pSyncTx_ini (s : State) :
    (pSyncTx s).ini = { s.ini with rxqD := [], sess := { lastcmd := .sync, got := 0, row := 0 } } := rfl

theorem pSyncTx_link (s : State) :
    (pSyncTx s).link = { s.link with d2i := s.link.d2i ++ [s.cfg.codes.cmdSync] } := rfl

theorem sendRow_ini (r : Nat) (s : State) :
    (sendRow r s).ini = { s.ini with sess := { lastcmd := lastOfCmd (cmdOfRow s.cfg r), got := 0, row := r } } := rfl

theorem sendRow_link (r : Nat) (s : State) :
    (sendRow r s).link = { s.link with d2i := s.link.d2i ++ [byteOfCmd s.cfg.codes (cmdOfRow s.cfg r)] } := rfl

theorem rxTake_of_nil (h : s.ini.rxqD = []) : rxTake s = (none, s) := by rw [rxTake, h]

theorem rxTake_of_cons {b : Byte} {rest : List Byte} (h : s.ini.rxqD = b :: rest) :
    rxTake s = (some b, s.withIni { s.ini with rxqD := rest }) := by rw [rxTake, h]

/-- Slot 1 closes SYNC and sends the command of row 0 (R176). -/
theorem pOdd_zero (h : 0 < s.cfg.nrow) : pOdd 0 s = sendRow 0 (closeSync (rxTake s).1 (rxTake s).2) := by
  rw [pOdd, if_pos rfl]
  exact if_pos (by simpa using h)

/-- A later odd slot closes the row before and opens the next row, if there is one, by sending its command (R176). -/
theorem pOdd_pos {r : Nat} (h : 1 ≤ r) {p : Initiator} (hp : closeRow (r - 1) (rxTake s).1 (rxTake s).2 = s.withIni p) :
    pOdd r s =
      (s.withIni
        { p with
          sess :=
            if r < s.cfg.nrow then { lastcmd := lastOfCmd (cmdOfRow s.cfg r), got := 0, row := r } else p.sess }).withLink
        (if r < s.cfg.nrow then { s.link with d2i := s.link.d2i ++ [byteOfCmd s.cfg.codes (cmdOfRow s.cfg r)] }
         else s.link) := by
  rw [pOdd, if_neg (Nat.one_le_iff_ne_zero.mp h), hp]
  dsimp only [State.withIni_cfg]
  split <;> rfl

theorem pEven_of_nil (h : s.ini.rxqD = []) : pEven s = s := by rw [pEven, rxTake_of_nil h]

theorem pEven_of_cons {b : Byte} {rest : List Byte} (h : s.ini.rxqD = b :: rest) :
    pEven s = s.withIni { s.ini with b0 := b, rxqD := rest, sess := { s.ini.sess with got := 1 } } := by
  rw [pEven, rxTake_of_cons h]
  rfl

theorem memFetch_of_some {sp : Space} {a : Nat} {v : Byte} (h : memRead s sp a = some v) : memFetch s sp a = (v, s) := by
  rw [memFetch, h]

/-- Where the table holds both latches, a row is their merge, and nothing is drawn (R191). -/
theorem decodeRow_eq (r : Nat) {g0 g1 : Byte} (h0 : memRead s .rm s.ini.b0.toNat = some g0)
    (h1 : memRead s .rm s.ini.b1.toNat = some g1) :
    decodeRow r s = s.withIni { s.ini with matrix := s.ini.matrix.set r (mergeGroups s.cfg.ncol g0 g1) } := by
  simp only [decodeRow, memFetch_of_some h0, memFetch_of_some h1]

/-- Closing a row takes the second byte, or keeps the stale one, and decodes the row (R176, R179). -/
theorem closeRow_rxTake (r : Nat) {b1 g0 g1 : Byte} (hb : b1 = s.ini.rxqD.headD s.ini.b1)
    (h0 : memRead s .rm s.ini.b0.toNat = some g0) (h1 : memRead s .rm b1.toNat = some g1) :
    closeRow r (rxTake s).1 (rxTake s).2 =
      s.withIni
        { s.ini with
          b1 := b1
          rxqD := s.ini.rxqD.tail
          matrix := s.ini.matrix.set r (mergeGroups s.cfg.ncol g0 g1)
          sess := { s.ini.sess with got := if s.ini.rxqD = [] then s.ini.sess.got else s.ini.sess.got + 1 } } := by
  cases hq : s.ini.rxqD with
  | nil =>
    have hb : b1 = s.ini.b1 := by simpa [hq] using hb
    subst hb
    rw [rxTake_of_nil hq, closeRow, decodeRow_eq r h0 h1, if_pos rfl, List.tail_nil, ← hq]
  | cons b rest =>
    obtain rfl : b1 = b := by simpa [hq] using hb
    rw [rxTake_of_cons hq, if_neg (List.cons_ne_nil b1 rest)]
    exact decodeRow_eq (s := latchSecond b1 (s.withIni { s.ini with rxqD := rest })) r h0 h1

/-! ### From one slot to the next -/

/-- What a TICK leaves of the state that names the slot after it. -/
theorem exec_tick_position (h : exec .tick s = .next t) :
    t.cfg = s.cfg ∧ t.profile = s.profile ∧ t.video.dispEn = s.video.dispEn ∧
    t.video.sl = (advanceCounters s).video.sl ∧ t.keys.keyEn = s.keys.keyEn ∧ t.rsp = s.rsp := by
  obtain ⟨-, -, rfl⟩ := execTick_next h
  simp [State.profile]

/-- The slot that comes is named by the configuration, the counters and the enables. -/
theorem SlotComes.congr {n : Nat} (h : SlotComes s n) (hc : t.cfg = s.cfg) (hv : t.video = s.video)
    (hk : t.keys = s.keys) : SlotComes t n := by
  have hp : t.profile = s.profile := by rw [State.profile, State.profile, hc, hv]
  have hsl : (advanceCounters t).video.sl = (advanceCounters s).video.sl := by
    rw [advanceCounters, advanceCounters, hp, hv]
    split <;> rfl
  simpa only [SlotComes, State.lineClass, advanceCounters_profile, hc, hv, hk, hp, hsl] using h

/-- The back porch of a display chip has a line for every slot (00_scope.md R7). -/
theorem ConfigOk.slots_le_vBp (h : ConfigOk s) (hr : s.cfg.role = .display) : 2 * s.cfg.nrow + 3 ≤ s.profile.vBp := by
  obtain ⟨hc, hm⟩ := h
  have hp : s.profile ∈ s.cfg.profiles := by simp [State.profile, profileAt, hm]
  have hall : s.cfg.profiles.all (fun p => decide (2 * s.cfg.nrow + 3 ≤ p.vBp)) = true := by
    simp only [Cfg.legal, hr, Cfg.legalDisplay, Bool.and_eq_true] at hc
    tauto
  simpa using List.all_eq_true.mp hall _ hp

theorem distinct_of_legal (hc : s.cfg.legal = true) (hr : s.cfg.role = .display) : s.cfg.codes.distinct = true := by
  simp only [Cfg.legal, hr, Bool.and_eq_true] at hc
  tauto

theorem vTotal_of_legal {p : VideoProfile} (h : p.legal = true) : p.vTotal = bpStart p + p.vBp := by
  simp only [VideoProfile.legal, Bool.and_eq_true, beq_iff_eq] at h
  rw [bpStart]
  tauto

/-- The TICK after that of a slot before the last runs the next slot (R152). -/
theorem slotComes_succ {n : Nat} (h : SlotComes s n) (hraster : RasterInv s) (hn : n < 2 * s.cfg.nrow + 2)
    (ht : exec .tick s = .next t) : SlotComes t (n + 1) := by
  obtain ⟨hr, hd, hk, hback, hslot⟩ := h
  obtain ⟨hok, hsl, -⟩ := hraster
  obtain ⟨htc, htp, htd, htsl, htk, -⟩ := exec_tick_position ht
  have hlines := hok.slots_le_vBp hr
  have htotal := vTotal_of_legal hok.profile_legal
  have hline : s.profile.vActive + s.profile.vFp + s.profile.vSync ≤ (advanceCounters s).video.sl.toNat := by
    simpa [State.lineClass, classify_eq_back] using hback
  rw [slotOf, bpStart] at hslot
  rw [bpStart] at htotal
  have hlt : t.video.sl.toNat + 1 < t.profile.vTotal := by
    rw [htsl, htp]
    omega
  have hnext : (advanceCounters t).video.sl.toNat = (advanceCounters s).video.sl.toNat + 1 := by
    rw [advanceCounters_sl_toNat (htp ▸ hok.vTotal_le) (by omega), Nat.mod_eq_of_lt hlt, htsl]
  refine ⟨htc ▸ hr, htd.trans hd, htk.trans hk, ?_, ?_⟩
  · rw [State.lineClass, advanceCounters_profile, classify_eq_back, htp, hnext]
    omega
  · rw [hnext, htp, slotOf, bpStart]
    omega

/-! ### The bits of a row (30_encoding.md R96, R97) -/

theorem pack0_getLsbD (v : BitVec 10) (i : Nat) : (pack0 v).getLsbD i = (decide (i < 5) && v.getLsbD i) := by
  rw [pack0, BitVec.getLsbD_append, BitVec.getLsbD_extractLsb']
  by_cases h : i < 5 <;> simp [h]

theorem pack1_getLsbD (v : BitVec 10) (i : Nat) : (pack1 v).getLsbD i = (decide (i < 5) && v.getLsbD (5 + i)) := by
  rw [pack1, BitVec.getLsbD_append, BitVec.getLsbD_extractLsb']
  by_cases h : i < 5 <;> simp [h]

/-- The default table inverts the low five bits and reverses them (R190). -/
theorem remapByte_getLsbD (b : Byte) (i : Nat) :
    (Config.remapByte b).getLsbD i = (decide (i < 5) && !b.getLsbD (4 - i)) := by
  rw [Config.remapByte, BitVec.getLsbD_append]
  by_cases h : i < 5
  · iterate 4 rw [BitVec.getLsbD_append]
    interval_cases i <;> simp
  · simp [h]

theorem mergeGroups_getLsbD (n : Nat) (g0 g1 : Byte) {k : Nat} (h : k < 10) :
    (mergeGroups n g0 g1).getLsbD k = (decide (k < n) && (decide (5 ≤ k) && g0.getLsbD (k - 5) || g1.getLsbD k)) := by
  rw [mergeGroups, BitVec.getLsbD_ofNat, Nat.testBit_mod_two_pow, Nat.testBit_or, Nat.testBit_shiftLeft,
    BitVec.testBit_toNat, BitVec.testBit_toNat, decide_eq_true h, Bool.true_and]

/-- Raw bit `j` of a sample, packed, translated by the default table and merged, is logical column `10 - j`, inverted. -/
theorem mergeGroups_remapByte_pack (v : BitVec 10) {j : Nat} (h : j < 10) :
    (mergeGroups 10 (Config.remapByte (pack0 v)) (Config.remapByte (pack1 v))).getLsbD (9 - j) = !v.getLsbD j := by
  rw [mergeGroups_getLsbD _ _ _ (by omega), remapByte_getLsbD, remapByte_getLsbD, pack0_getLsbD, pack1_getLsbD]
  by_cases hj : j < 5
  · have hpos : 4 - (9 - j - 5) = j := by omega
    rw [hpos]
    simp [hj, show 5 ≤ 9 - j by omega, show ¬ 9 - j < 5 by omega, show 9 - j - 5 < 5 by omega,
      show 9 - j < 10 by omega]
  · have hpos : 5 + (4 - (9 - j)) = j := by omega
    rw [hpos]
    simp [show ¬ 5 ≤ 9 - j by omega, show 9 - j < 5 by omega, show 4 - (9 - j) < 5 by omega, show 9 - j < 10 by omega]

/-- A legal configuration with ten columns has all ten pins (log 31), so the sample is what the environment drives. -/
theorem columnPins_of_ten (hc : s.cfg.legal = true) (hr : s.cfg.role = .display) (hn : s.cfg.ncol = 10) :
    columnPins s = s.inp.colin := by
  have hpins : s.cfg.pinsOk = true := by
    simp only [Cfg.legal, hr, Bool.and_eq_true] at hc
    tauto
  have hall : ∀ j ∈ List.range 10, s.cfg.colPins.getLsbD j = true := by
    rw [← List.length_filter_eq_length_iff]
    simpa [Cfg.pinsOk, hn] using hpins
  refine BitVec.eq_of_getLsbD_eq fun j hj => ?_
  rw [columnPins_getLsbD, hall j (List.mem_range.mpr hj)]
  simp

end

end Sys2Proof.Machine

/-! ### The statements -/

section
open Sys2Proof Sys2Proof.Machine

/-- Settles O7: the responder exists in a two-chip system, and each command is its routine (`rspSync_eq`, `rspRow_eq`). -/
theorem commandsAtTheResponder : Obligations.CommandsAtTheResponder := by
  intro s hrole
  have hlink := linkStep_of_link hrole
  exact ⟨(hlink _).trans (congrArg _ (rspSync_eq s)), (hlink _).trans (congrArg _ (rspRow_eq true s)),
    (hlink _).trans (congrArg _ (rspRow_eq false s))⟩

/-- Settles O8: the byte is consumed, then `rspByte` goes by the command it is, if any. -/
theorem rspStepHandlesOneByte : Obligations.RspStepHandlesOneByte := by
  intro s c rest hrole hdist hq
  let u := s.withRsp { s.rsp with rxqI := rest }
  have hstep := exec_rspStep hrole hq
  refine ⟨?_, ?_, ?_, fun hs hh hl => ?_⟩
  · rintro rfl
    exact hstep.trans (congrArg _ (rspByte_sync u))
  · rintro rfl
    exact exec_rspStep_rowCmd (cmd := .rowHigh) hrole hdist hq
  · rintro rfl
    exact exec_rspStep_rowCmd (cmd := .rowLow) hrole hdist hq
  · exact hstep.trans (congrArg _ (rspByte_reserved (s := u) hs hh hl))

/-- Settles O9: one delivery in each direction. -/
theorem linkDeliversOldestByte : Obligations.LinkDeliversOldestByte := by
  intro s b t hrole
  exact ⟨exec_dlvD2I hrole, exec_dlvI2D hrole⟩

/-- Settles O10: on a channel that is not empty each operation takes its second branch. -/
theorem linkLosesOrCorruptsOldestByte : Obligations.LinkLosesOrCorruptsOldestByte := by
  intro s b x t hrole
  have hlink := linkStep_of_link hrole
  refine ⟨fun hq => ⟨(hlink _).trans ?_, (hlink _).trans ?_⟩, fun hq => ⟨(hlink _).trans ?_, (hlink _).trans ?_⟩⟩ <;>
    (rw [hq]; rfl)

/-- Settles O29: the slot is P_SYNC_TX on the opened line. -/
theorem slotZeroSendsSync : Obligations.SlotZeroSendsSync := by
  intro s h
  obtain ⟨t, u, ht, hu, hini, hlink, hkeys, hmem, hsched, hshown⟩ := exists_tick_slot h
  rw [pSlot_zero] at hini hlink hkeys hmem hsched
  refine ⟨t, ht, ?_, ?_, by simp [hkeys, hu], by simp [hmem, hu], by simp [hsched, hu], hshown⟩
  · simp [hini, pSyncTx_ini, hu]
  · simp [hlink, pSyncTx_link, hu]

/-- Settles O30: P_ODD of slot 1 closes SYNC, then sends row 0's command. -/
theorem slotOneClosesSync : Obligations.SlotOneClosesSync := by
  intro s h hrow
  obtain ⟨t, u, ht, hu, hini, hlink, hkeys, hmem, hsched, hshown⟩ := exists_tick_slot h
  have hcfg : u.cfg = s.cfg := by simp [hu]
  have huini : u.ini = s.ini := by simp [hu]
  have hslot : pSlot 1 u = sendRow 0 (closeSync (rxTake u).1 (rxTake u).2) :=
    (pSlot_odd (r := 0) (Nat.zero_le _)).trans (pOdd_zero (hcfg ▸ hrow))
  rw [hslot] at hini hlink hkeys hmem hsched
  refine ⟨t, ht, fun hq => ?_, fun b rest hq => ?_, ?_, by simp [hkeys, hu], by simp [hmem, hu], by simp [hsched, hu], hshown⟩
  · rw [hini, sendRow_ini, rxTake_of_nil (huini ▸ hq), closeSync]
    simp [huini, hcfg]
  · rw [hini, sendRow_ini, rxTake_of_cons (huini ▸ hq), closeSync, latchAck]
    simp [huini, hcfg, linkOkFlag]
  · rw [hlink, sendRow_link]
    simp [hu]

/-- Settles O31: P_ODD of a later slot closes the row before (`closeRow_rxTake`), then sends the next command, if any. -/
theorem oddSlotDecodesTheRow : Obligations.OddSlotDecodesTheRow := by
  intro s r b1 g0 g1 hr hrow h hb h0 h1
  obtain ⟨t, u, ht, hu, hini, hlink, hkeys, hmem, hsched, hshown⟩ := exists_tick_slot h
  have hcfg : u.cfg = s.cfg := by simp [hu]
  have huini : u.ini = s.ini := by simp [hu]
  have hulink : u.link = s.link := by simp [hu]
  have hread (a : Nat) : memRead u .rm a = memRead s .rm a := memRead_congr .rm a (by simp [hu]) (by simp)
  have hclose := closeRow_rxTake (s := u) (r - 1) (huini ▸ hb) (by rw [huini, hread, h0]) (by rw [hread, h1])
  have hslot := (pSlot_odd (hcfg ▸ hrow)).trans (pOdd_pos hr hclose)
  rw [hslot] at hini hlink hkeys hmem hsched
  rw [huini, hcfg] at hini
  rw [hcfg] at hlink
  refine ⟨t, ht, by rw [hini]; rfl, by rw [hini]; rfl, by rw [hini]; rfl, by rw [hini]; rfl, by rw [hini]; rfl,
    fun hlt => ⟨?_, ?_⟩, fun heq => ⟨?_, ?_⟩, by simp [hkeys, hu], by simp [hmem, hu], by simp [hsched, hu], hshown⟩
  · rw [hini]; exact if_pos hlt
  · rw [hlink, ← hulink]; exact if_pos hlt
  · rw [hlink, ← hulink]; exact if_neg heq.not_lt
  · rw [hini]; exact if_neg heq.not_lt

/-- Settles O32: P_EVEN takes the byte that is there. -/
theorem evenSlotTakesTheFirstByte : Obligations.EvenSlotTakesTheFirstByte := by
  intro s r hrow h
  obtain ⟨t, u, ht, hu, hini, hlink, hkeys, hmem, hsched, hshown⟩ := exists_tick_slot h
  have huini : u.ini = s.ini := by simp [hu]
  rw [pSlot_even (by simpa [hu] using hrow)] at hini hlink hkeys hmem hsched
  refine ⟨t, ht, fun hq => ?_, fun b rest hq => ?_, ?_, by simp [hkeys, hu], by simp [hmem, hu], by simp [hsched, hu], hshown⟩
  · rw [hini, pEven_of_nil (huini ▸ hq), huini]
  · rw [hini, pEven_of_cons (huini ▸ hq), huini]
    rfl
  · simp [hlink, hu]

end

namespace Sys2Proof.Machine

open Sys2Proof

section
variable {s : State}

/-! ### A row's reply (R185, R172) -/

theorem runAll_cons_of_next {i : Instr} (h : exec i s = .next t) (is : List Instr) : runAll (i :: is) s = runAll is t := by
  rw [runAll, h]

/-- Two bytes in flight are delivered in order. -/
theorem runAll_twoDeliveries {a b : Byte} (h : s.cfg.role ≠ .single) (hq : s.link.i2d = [a, b]) (is : List Instr) :
    runAll (.dlvI2D :: .dlvI2D :: is) s = runAll is
      { s with link := { s.link with i2d := [] }, ini := { s.ini with rxqD := s.ini.rxqD ++ [a] ++ [b] } } := by
  refine (runAll_cons_of_next (exec_dlvI2D h hq) _).trans (runAll_cons_of_next (exec_dlvI2D ?_ ?_) is)
  · exact h
  · rfl

/-- The initiator's receive queue after a row command was answered over an empty link and both bytes were delivered. -/
theorem exists_rowReply {cmd : RowCmd} {rest : List Byte} (hrole : s.cfg.role ≠ .single)
    (hdist : s.cfg.codes.distinct = true) (hq : s.rsp.rxqI = byteOfCmd s.cfg.codes cmd :: rest) (hl : s.link.i2d = [])
    (hd : s.ini.rxqD = []) :
    ∃ t, (∀ is, runAll (.rspStep :: .dlvI2D :: .dlvI2D :: is) s = runAll is t) ∧
      t.cfg = s.cfg ∧ t.video = s.video ∧ t.keys = s.keys ∧ t.mem = s.mem ∧ t.rsp.rxqI = rest ∧
      t.ini = { s.ini with rxqD := [pack0 (columnPins s), pack1 (columnPins s)] } := by
  obtain ⟨u, hu, hstep⟩ : ∃ u, u = _ ∧ exec .rspStep s = .next u := ⟨_, rfl, exec_rspStep_rowCmd hrole hdist hq⟩
  have hurole : u.cfg.role ≠ .single := by rw [hu]; exact hrole
  have hul : u.link.i2d = [pack0 (columnPins s), pack1 (columnPins s)] := by rw [hu, hl]; rfl
  refine ⟨_, fun is => (runAll_cons_of_next hstep _).trans (runAll_twoDeliveries hurole hul is), ?_⟩
  simp [hu, hd]

/-- The two slots of row `r` decode the two received bytes into MATRIX. -/
theorem exists_rowSlots {r : Nat} {b0 b1 g0 g1 : Byte} (hraster : RasterInv s) (hrow : r < s.cfg.nrow)
    (hslot : SlotComes s (2 * r + 2)) (hq : s.ini.rxqD = [b0, b1]) (h0 : memRead s .rm b0.toNat = some g0)
    (h1 : memRead s .rm b1.toNat = some g1) :
    ∃ t, runAll [.tick, .tick] s = .next t ∧ t.rsp = s.rsp ∧
      t.ini.matrix = s.ini.matrix.set r (mergeGroups s.cfg.ncol g0 g1) := by
  obtain ⟨u, hu, -, huini, -, -, humem, -⟩ := evenSlotTakesTheFirstByte s r hrow hslot
  obtain ⟨hucfg, -, -, -, -, hursp⟩ := exec_tick_position hu
  have huini := huini b0 [b1] hq
  have huread (a : Nat) : memRead u .rm a = memRead s .rm a := memRead_congr .rm a humem (by simp)
  have huslot : SlotComes u (2 * (r + 1) + 1) := slotComes_succ hslot hraster (by omega) hu
  obtain ⟨t, ht, hmatrix, -⟩ := oddSlotDecodesTheRow u (r + 1) b1 g0 g1 (by omega) (by rw [hucfg]; omega) huslot
    (by rw [huini]; rfl) (by rw [huread, huini, h0]) (by rw [huread, h1])
  obtain ⟨-, -, -, -, -, htrsp⟩ := exec_tick_position ht
  refine ⟨t, ?_, htrsp.trans hursp, ?_⟩
  · rw [runAll_cons_of_next hu, runAll_cons_of_next ht, runAll]
  · rw [hmatrix, huini, hucfg]
    rfl

end

end Sys2Proof.Machine

section
open Sys2Proof Sys2Proof.Machine

/-- Settles O44: the reply is delivered before slot `2r+2`, so that slot and the next take its two bytes, and the bits of the
row are those of the sample (`mergeGroups_remapByte_pack`). -/
theorem rowExchangeDecodesTheColumns : Obligations.RowExchangeDecodesTheColumns := by
  intro s r cmd rest hraster hrow hq hslot hten hlen hremap hl hd
  have hrole : s.cfg.role = .display := hslot.1
  obtain ⟨hlegal, -⟩ : ConfigOk s := hraster.1
  obtain ⟨u, hrun, hcfg, hvideo, hkeys, hmem, hrest, hini⟩ :=
    exists_rowReply (by simp [hrole]) (distinct_of_legal hlegal hrole) hq hl hd
  have huraster : RasterInv u := by
    simpa only [RasterInv, ConfigOk, State.lineClass, State.profile, hcfg, hvideo] using hraster
  have hread (b : Byte) : memRead u .rm b.toNat = some (Config.remapByte b) :=
    (memRead_congr .rm _ hmem (by simp)).trans (hremap b)
  obtain ⟨t, ht, hrsp, hmatrix⟩ := exists_rowSlots huraster (hcfg ▸ hrow) (hslot.congr hcfg hvideo hkeys)
    (by rw [hini]) (hread _) (hread _)
  refine ⟨t, (hrun _).trans ht, hrsp ▸ hrest, fun j hj => ?_⟩
  have hr : r < s.ini.matrix.length := hlen ▸ hrow
  rw [hmatrix, hini, hcfg, hten, columnPins_of_ten hlegal hrole hten, List.getD_eq_getElem?_getD,
    List.getElem?_set_self hr, Option.getD_some]
  exact mergeGroups_remapByte_pack _ hj

end
end

section
/-! PROOF. The key debouncer (43_key_debouncer.md): what one sample makes of one key, a key held or released for several ticks,
and a scan step taken apart into its keys and its pushes. -/

namespace Sys2Proof.Machine

open Sys2Proof

section
variable {s : State} {c : Cfg} {k : KeyState} {i : Nat}

/-! ### One sample of one entry (R213 to R218) -/

theorem sampled_true_idle (h : k.rel = 0) : k.sampled c true = { rel := c.keycntRel, rpt := c.keycntPress } := by
  simp [KeyState.sampled, h]

/-- An asserted sample of a pressed key runs the repeat counter down, and reloads it where it would reach 0. -/
theorem sampled_true_pressed (h : k.rel ≠ 0) :
    k.sampled c true = { rel := c.keycntRel, rpt := if k.rpt = 1 then c.keycntRepeat else k.rpt - 1 } := by
  have hlast : k.rpt - 1 = 0 ↔ k.rpt = 1 := by bv_omega
  rw [KeyState.sampled, if_pos rfl, if_neg h]
  by_cases h1 : k.rpt = 1
  · rw [if_pos (hlast.mpr h1), if_pos h1]
  · rw [if_neg (mt hlast.mp h1), if_neg h1]

theorem sampled_false_pressed (h : k.rel ≠ 0) : k.sampled c false = { rel := k.rel - 1, rpt := k.rpt } := by
  rw [KeyState.sampled, if_neg Bool.false_ne_true, if_neg h]

theorem sampled_false_idle (h : k.rel = 0) : k.sampled c false = k := by
  rw [KeyState.sampled, if_neg Bool.false_ne_true, if_pos h]

theorem pressEvent_false : pressEvent k false = false := rfl

theorem pressEvent_idle (h : k.rel = 0) : pressEvent k true = true := by simp [pressEvent, h]

theorem pressEvent_pressed (h : k.rel ≠ 0) : pressEvent k true = decide (k.rpt = 1) := by
  simp only [pressEvent, beq_eq_false_iff_ne.mpr h, Bool.true_and, Bool.false_or, Bool.beq_eq_decide_eq]

/-! ### The entries after DEBOUNCE_KEY -/

theorem keyState_of_getElem? (h : s.keys.ks[i]? = some k) : keyState s i = k := by
  rw [keyState, List.getD_eq_getElem?_getD, h, Option.getD_some]

/-- DEBOUNCE_KEY of a key makes of its entry what the sample alone makes of it. -/
theorem debounceKey_getElem?_self (i : Nat) (a : Bool) (s : State) :
    (debounceKey i a s).keys.ks[i]? = s.keys.ks[i]?.map (KeyState.sampled s.cfg a) := by
  rw [debounceKey_ks, List.getElem?_set_self']
  cases h : s.keys.ks[i]? with
  | none => rfl
  | some k => rw [keyState_of_getElem? h]; rfl

theorem debounceKey_getElem?_ne {j : Nat} (h : i ≠ j) (a : Bool) (s : State) :
    (debounceKey i a s).keys.ks[j]? = s.keys.ks[j]? := by
  rw [debounceKey_ks, List.getElem?_set_ne h]

theorem keyState_debounceKey_self (h : i < s.keys.ks.length) (a : Bool) :
    keyState (debounceKey i a s) i = (keyState s i).sampled s.cfg a := by
  have hk : s.keys.ks[i]? = some s.keys.ks[i] := List.getElem?_eq_getElem h
  rw [keyState_of_getElem? hk]
  exact keyState_of_getElem? (by rw [debounceKey_getElem?_self, hk, Option.map_some])

theorem keyState_debounceKey_ne {j : Nat} (h : i ≠ j) (a : Bool) (s : State) :
    keyState (debounceKey i a s) j = keyState s j := by
  rw [keyState, keyState, List.getD_eq_getElem?_getD, List.getD_eq_getElem?_getD, debounceKey_getElem?_ne h]

/-! ### The queue after DEBOUNCE_KEY -/

theorem debounceKey_of_event {a : Bool} (h : pressEvent (keyState s i) a = true) :
    debounceKey i a s = qPush (setKeyState s i ((keyState s i).sampled s.cfg a)) (keyCode i) := by
  rw [debounceKey_eq, if_pos h]

theorem debounceKey_of_no_event {a : Bool} (h : pressEvent (keyState s i) a = false) :
    debounceKey i a s = setKeyState s i ((keyState s i).sampled s.cfg a) := by
  rw [debounceKey_eq, h, if_neg Bool.false_ne_true]

/-- A press event of a queue with room stores the key's code at the write offset, which advances. -/
theorem debounceKey_stores {a : Bool} (h : pressEvent (keyState s i) a = true) (hroom : queueFull s = false) :
    memRead (debounceKey i a s) .qb s.keys.qWr = some (keyCode i) ∧
    (debounceKey i a s).keys.qWr = ringNext s.cfg s.keys.qWr := by
  rw [debounceKey_of_event h]
  obtain ⟨hfull, -⟩ | ⟨-, e⟩ := qPush_cases (setKeyState s i ((keyState s i).sampled s.cfg a)) (keyCode i)
  · exact absurd (hfull.symm.trans hroom) (by decide)
  · rw [e]
    exact ⟨memRead_memWrite_same _ .qb _ _ (by decide), rfl⟩

/-- A press event of a full queue is dropped. -/
theorem debounceKey_drops {a : Bool} (h : pressEvent (keyState s i) a = true) (hfull : queueFull s = true) :
    (debounceKey i a s).keys.qWr = s.keys.qWr ∧ (debounceKey i a s).mem = s.mem := by
  have hkept : queueFull (setKeyState s i ((keyState s i).sampled s.cfg a)) = true := hfull
  rw [debounceKey_of_event h, qPush, if_pos hkept]
  exact ⟨rfl, rfl⟩

theorem debounceKey_quiet {a : Bool} (h : pressEvent (keyState s i) a = false) :
    (debounceKey i a s).keys.qWr = s.keys.qWr ∧ (debounceKey i a s).mem = s.mem := by
  rw [debounceKey_of_no_event h]
  exact ⟨rfl, rfl⟩

/-! ### A held key (R223) -/

/-- The reload values of a legal configuration are not 0 (00_scope.md R7). -/
theorem reloads_pos (h : c.legal = true) :
    0 < c.keycntPress.toNat ∧ 0 < c.keycntRepeat.toNat ∧ 0 < c.keycntRel.toNat := by
  simp only [Cfg.legal, Bool.and_eq_true, bne_iff_ne] at h
  obtain ⟨⟨⟨⟨⟨⟨⟨-, hpress⟩, hrep⟩, hrel⟩, -⟩, -⟩, -⟩, -⟩ := h
  refine ⟨?_, ?_, ?_⟩ <;> bv_omega

/-- The repeat counter of a held key after tick `n` of its press: the ticks left to the next event. -/
def heldCount (press rep n : Nat) : Nat := if n < press then press - n else rep - (n - press) % rep

section
variable {press rep : Nat}

theorem heldCount_of_lt {n : Nat} (h : n < press) : heldCount press rep n = press - n := if_pos h

theorem heldCount_add (m : Nat) : heldCount press rep (press + m) = rep - m % rep := by
  rw [heldCount, if_neg (by omega), Nat.add_sub_cancel_left]

theorem heldCount_self : heldCount press rep press = rep := by
  simpa only [Nat.add_zero, Nat.zero_mod, Nat.sub_zero] using heldCount_add (press := press) (rep := rep) 0

/-- The ticks of a press: before the first repeat, its eve, and from it on. -/
theorem heldTick_cases (press n : Nat) : n + 1 < press ∨ n + 1 = press ∨ ∃ m, n = press + m := by
  obtain h | h | h : n + 1 < press ∨ n + 1 = press ∨ press ≤ n := by omega
  · exact .inl h
  · exact .inr (.inl h)
  · exact .inr (.inr (Nat.exists_eq_add_of_le h))

theorem heldCount_pos (hrep : 0 < rep) (n : Nat) : 0 < heldCount press rep n := by
  unfold heldCount
  split
  · omega
  · exact Nat.sub_pos_of_lt (Nat.mod_lt _ hrep)

/-- The turn of a counter of period `rep` begins after its last tick. -/
theorem succ_mod_eq_ite (hrep : 0 < rep) (m : Nat) : (m + 1) % rep = if rep - m % rep = 1 then 0 else m % rep + 1 := by
  have hlt := Nat.mod_lt m hrep
  rw [← Nat.mod_add_mod]
  split
  · next h => rw [show m % rep + 1 = rep by omega, Nat.mod_self]
  · next h => exact Nat.mod_eq_of_lt (by omega)

/-- A tick runs the count down, and reloads it with `rep` where it would reach 0. -/
theorem heldCount_succ (hrep : 0 < rep) (n : Nat) :
    heldCount press rep (n + 1) =
      if heldCount press rep n = 1 then rep else heldCount press rep n - 1 := by
  obtain h | rfl | ⟨m, rfl⟩ := heldTick_cases press n
  · rw [heldCount_of_lt h, heldCount_of_lt (by omega), if_neg (by omega), Nat.sub_sub]
  · rw [heldCount_self, heldCount_of_lt (Nat.lt_succ_self n), if_pos (by omega)]
  · rw [Nat.add_assoc, heldCount_add, heldCount_add, succ_mod_eq_ite hrep]
    split <;> omega

/-- The ticks that find the counter at 1 are the event ticks after the first. -/
theorem eventTick_succ_iff (hrep : 0 < rep) (n : Nat) :
    eventTick press rep (n + 1) = true ↔ heldCount press rep n = 1 := by
  have hev : eventTick press rep (n + 1) = true ↔ press ≤ n + 1 ∧ (n + 1 - press) % rep = 0 := by simp [eventTick]
  rw [hev]
  obtain h | rfl | ⟨m, rfl⟩ := heldTick_cases press n
  · rw [heldCount_of_lt (by omega)]
    omega
  · rw [heldCount_of_lt (Nat.lt_succ_self n), Nat.sub_self, Nat.zero_mod]
    omega
  · rw [heldCount_add, Nat.add_assoc, Nat.add_sub_cancel_left, succ_mod_eq_ite hrep]
    split <;> omega

end

@[simp] theorem heldFor_frame (i n : Nat) (s : State) :
    (heldFor i n s).cfg = s.cfg ∧ (heldFor i n s).keys.ks.length = s.keys.ks.length := by
  induction n with
  | zero => exact ⟨rfl, rfl⟩
  | succ n ih => simpa only [heldFor, debounceKey_frame, debounceKey_keys] using ih

/-- The entry of a key pressed from Idle, after tick `n` of the press. -/
theorem keyState_heldFor_succ (hc : s.cfg.legal = true) (hi : i < s.keys.ks.length) (hidle : (keyState s i).rel = 0)
    (n : Nat) :
    (keyState (heldFor i (n + 1) s) i).rel = s.cfg.keycntRel ∧
    (keyState (heldFor i (n + 1) s) i).rpt.toNat = heldCount s.cfg.keycntPress.toNat s.cfg.keycntRepeat.toNat n := by
  obtain ⟨hpress, hrep, hrel⟩ := reloads_pos hc
  induction n with
  | zero =>
    rw [heldFor, heldFor, keyState_debounceKey_self hi, sampled_true_idle hidle]
    exact ⟨rfl, (if_pos hpress).symm⟩
  | succ n ih =>
    obtain ⟨ihrel, ihrpt⟩ := ih
    have hpressed : (keyState (heldFor i (n + 1) s) i).rel ≠ 0 := by rw [ihrel]; bv_omega
    rw [heldFor, keyState_debounceKey_self (by simpa using hi), sampled_true_pressed hpressed, heldCount_succ hrep, ← ihrpt,
      (heldFor_frame i (n + 1) s).1]
    refine ⟨rfl, ?_⟩
    have hpos : 0 < (keyState (heldFor i (n + 1) s) i).rpt.toNat := ihrpt ▸ heldCount_pos hrep n
    dsimp only
    split <;> split <;> bv_omega

/-- The ticks on which a held key is sampled as a press event are the event ticks of R223. -/
theorem pressEvent_heldFor (hc : s.cfg.legal = true) (hi : i < s.keys.ks.length) (hidle : (keyState s i).rel = 0) (n : Nat) :
    pressEvent (keyState (heldFor i n s) i) true = eventTick s.cfg.keycntPress.toNat s.cfg.keycntRepeat.toNat n := by
  cases n with
  | zero => exact pressEvent_idle hidle
  | succ n =>
    obtain ⟨-, hrep, hrel⟩ := reloads_pos hc
    obtain ⟨hkrel, hkrpt⟩ := keyState_heldFor_succ hc hi hidle n
    have hone : (keyState (heldFor i (n + 1) s) i).rpt = 1 ↔ (keyState (heldFor i (n + 1) s) i).rpt.toNat = 1 := by bv_omega
    rw [pressEvent_pressed (by rw [hkrel]; bv_omega), Bool.eq_iff_iff, decide_eq_true_iff, hone, hkrpt, eventTick_succ_iff hrep]

/-! ### A released key (R217, R218) -/

/-- Deasserted samples of a key run its release counter down to 0, and reach nothing of the queue. -/
theorem releasedFor_spec (hi : i < s.keys.ks.length) (j : Nat) :
    (releasedFor i j s).cfg = s.cfg ∧ (releasedFor i j s).keys.ks.length = s.keys.ks.length ∧
    (releasedFor i j s).keys.qWr = s.keys.qWr ∧ (releasedFor i j s).mem = s.mem ∧
    (keyState (releasedFor i j s) i).rel.toNat = (keyState s i).rel.toNat - j ∧
    (keyState (releasedFor i j s) i).rpt = (keyState s i).rpt := by
  induction j with
  | zero => exact ⟨rfl, rfl, rfl, rfl, rfl, rfl⟩
  | succ j ih =>
    obtain ⟨hcfg, hlen, hwr, hmem, hrel, hrpt⟩ := ih
    obtain ⟨hwr', hmem'⟩ := debounceKey_quiet (s := releasedFor i j s) (i := i) pressEvent_false
    simp only [releasedFor, debounceKey_frame, debounceKey_keys]
    refine ⟨hcfg, hlen, hwr'.trans hwr, hmem'.trans hmem, ?_⟩
    rw [keyState_debounceKey_self (hlen ▸ hi)]
    by_cases h0 : (keyState (releasedFor i j s) i).rel = 0
    · rw [sampled_false_idle h0]
      exact ⟨by bv_omega, hrpt⟩
    · rw [sampled_false_pressed h0]
      exact ⟨by dsimp only; bv_omega, hrpt⟩

theorem toNat_keyCode (hc : c.legal = true) (hi : i < c.nkey) : (keyCode i).toNat = i + 1 := by
  have hn : c.nkey ≤ 255 := by
    simp only [Cfg.legal, Bool.and_eq_true, decide_eq_true_eq] at hc
    obtain ⟨⟨-, hn⟩, -⟩ := hc
    exact hn
  rw [keyCode, BitVec.toNat_ofNat, Nat.mod_eq_of_lt (by omega)]

/-- The code of a key reads back its own entry (R100, R222). -/
theorem keyPressedFlag_keyCode (hc : s.cfg.legal = true) (hi : i < s.cfg.nkey) :
    keyPressedFlag s (keyCode i) = ((keyState s i).rel != 0) := by
  rw [keyPressedFlag, if_pos (keyCode_range hc hi), toNat_keyCode hc hi, Nat.add_sub_cancel]

/-! ### A scan step, key by key (R212, R220, R221) -/

theorem debounceFrom_getElem?_lt {j : Nat} (h : j < i) (as : List Bool) (s : State) :
    (debounceFrom i as s).keys.ks[j]? = s.keys.ks[j]? := by
  induction as generalizing i s with
  | nil => rfl
  | cons a as ih => rw [debounceFrom, ih (by omega), debounceKey_getElem?_ne (by omega)]

/-- The keys from `i` on are debounced once each, on their own samples. -/
theorem debounceFrom_getElem? {as : List Bool} {j : Nat} {a : Bool} (h : as[j]? = some a) (i : Nat) (s : State) :
    (debounceFrom i as s).keys.ks[i + j]? = s.keys.ks[i + j]?.map (KeyState.sampled s.cfg a) := by
  induction as generalizing i j s with
  | nil => simp at h
  | cons b as ih =>
    rw [debounceFrom]
    cases j with
    | zero =>
      obtain rfl : b = a := by simpa using h
      exact (debounceFrom_getElem?_lt (Nat.lt_add_one i) as _).trans (debounceKey_getElem?_self i b s)
    | succ j =>
      have hnext := ih (by simpa using h) (i + 1) (debounceKey i b s)
      rwa [show i + 1 + j = i + (j + 1) by omega, debounceKey_getElem?_ne (by omega), (debounceKey_frame i b s).1] at hnext

/-- A scan step reaches the entries, the write offset and the memory only (R221). -/
theorem debounceFrom_changes (i : Nat) (as : List Bool) (s : State) :
    debounceFrom i as s =
      { s with
        keys := { s.keys with ks := (debounceFrom i as s).keys.ks, qWr := (debounceFrom i as s).keys.qWr }
        mem := (debounceFrom i as s).mem } := by
  let u := debounceFrom i as s
  calc u = { u with keys := { u.keys with ks := u.keys.ks, qWr := u.keys.qWr }, mem := u.mem } := rfl
    _ = _ := by simp only [u, debounceFrom_frame, debounceFrom_keys]

/-! The pushes of a scan step do not see the entries, so they can be taken out of it. -/

/-- The state with the key entries replaced. -/
def withEntries (s : State) (l : List KeyState) : State := s.withKeys { s.keys with ks := l }

theorem withEntries_withEntries (s : State) (l l' : List KeyState) : withEntries (withEntries s l) l' = withEntries s l' := rfl

theorem setKeyState_eq_withEntries (s : State) (i : Nat) (k : KeyState) :
    setKeyState s i k = withEntries s (s.keys.ks.set i k) := rfl

theorem qPush_withEntries (s : State) (l : List KeyState) (b : Byte) :
    qPush (withEntries s l) b = withEntries (qPush s b) l := by
  have hfull : queueFull (withEntries s l) = queueFull s := rfl
  rw [qPush, qPush, hfull]
  split <;> rfl

theorem pushAll_withEntries (bs : List Byte) (s : State) (l : List KeyState) :
    pushAll bs (withEntries s l) = withEntries (pushAll bs s) l := by
  induction bs generalizing s with
  | nil => rfl
  | cons b bs ih => rw [pushAll, pushAll, qPush_withEntries, ih]

theorem pushAll_append (bs cs : List Byte) (s : State) : pushAll (bs ++ cs) s = pushAll cs (pushAll bs s) := by
  induction bs generalizing s with
  | nil => rfl
  | cons b bs ih => rw [List.cons_append, pushAll, pushAll, ih]

/-- The code one sample of key `i` queues, if it is a press event. -/
def sampleCodes (i : Nat) (a : Bool) (s : State) : List Byte :=
  if pressEvent (keyState s i) a then [keyCode i] else []

/-- The codes the samples of the keys from `i` on queue, in ascending key index. -/
def scanCodesFrom : Nat → List Bool → State → List Byte
  | _, [], _ => []
  | i, a :: as, s => sampleCodes i a s ++ scanCodesFrom (i + 1) as s

theorem scanCodesFrom_eq (i : Nat) (as : List Bool) (s : State) :
    scanCodesFrom i as s =
      ((List.range as.length).filter fun j => pressEvent (keyState s (i + j)) (as.getD j false)).map
        fun j => keyCode (i + j) := by
  induction as generalizing i with
  | nil => rfl
  | cons a as ih =>
    rw [scanCodesFrom, ih, sampleCodes, List.length_cons, List.range_succ_eq_map, List.filter_cons, List.filter_map]
    split <;> simp [*, Function.comp_def, Nat.add_assoc, Nat.add_comm 1]

theorem scanCodes_eq (as : List Bool) (s : State) : scanCodes as s = scanCodesFrom 0 as s := by
  simp only [scanCodesFrom_eq, scanCodes, Nat.zero_add]

theorem scanCodesFrom_congr {t : State} (as : List Bool) (h : ∀ j, i ≤ j → keyState t j = keyState s j) :
    scanCodesFrom i as t = scanCodesFrom i as s := by
  induction as generalizing i with
  | nil => rfl
  | cons a as ih => rw [scanCodesFrom, scanCodesFrom, sampleCodes, sampleCodes, h i le_rfl, ih fun j hj => h j (by omega)]

theorem debounceKey_eq_pushAll (i : Nat) (a : Bool) (s : State) :
    debounceKey i a s = withEntries (pushAll (sampleCodes i a s) s) (debounceKey i a s).keys.ks := by
  rw [debounceKey_ks, debounceKey_eq, sampleCodes, setKeyState_eq_withEntries]
  split
  · exact qPush_withEntries _ _ _
  · rfl

/-- A scan step is its pushes, and the entries it leaves. -/
theorem debounceFrom_eq_pushAll (i : Nat) (as : List Bool) (s : State) :
    debounceFrom i as s = withEntries (pushAll (scanCodesFrom i as s) s) (debounceFrom i as s).keys.ks := by
  induction as generalizing i s with
  | nil => rfl
  | cons a as ih =>
    have hcodes : scanCodesFrom (i + 1) as (debounceKey i a s) = scanCodesFrom (i + 1) as s :=
      scanCodesFrom_congr as fun j hj => keyState_debounceKey_ne (by omega) a s
    calc debounceFrom (i + 1) as (debounceKey i a s)
        = withEntries (pushAll (scanCodesFrom (i + 1) as s) (debounceKey i a s)) (debounceFrom i (a :: as) s).keys.ks := by
          rw [← hcodes]
          exact ih (i + 1) (debounceKey i a s)
      _ = withEntries (pushAll (scanCodesFrom (i + 1) as s) (pushAll (sampleCodes i a s) s))
            (debounceFrom i (a :: as) s).keys.ks := by
          rw [debounceKey_eq_pushAll i a s, pushAll_withEntries, withEntries_withEntries]
      _ = withEntries (pushAll (scanCodesFrom i (a :: as) s) s) (debounceFrom i (a :: as) s).keys.ks := by
          rw [scanCodesFrom, pushAll_append]

/-- On a single chip a scan step samples the local key inputs (R211, R212). -/
theorem scan_single (hr : s.cfg.role = .single) :
    scan s = debounceFrom 0 ((List.range s.cfg.nkey).map fun i => s.inp.keyin.getD i false) s := by
  have hraw : rawSample s = fun i => s.inp.keyin.getD i false := by
    funext i
    rw [rawSample, hr]
  rw [scan, rawVector, hraw]
  exact if_neg (by simp [hr])

end

end Sys2Proof.Machine

section
open Sys2Proof Sys2Proof.Machine

/-- Settles O36: KEYTICK passes its two guards, and the scan of a single chip samples the local key inputs. -/
theorem keyTickScansEveryKey : Obligations.KeyTickScansEveryKey := by
  intro s hrole hen
  show execKeyTick s = _
  rw [execKeyTick, if_neg (by simp [hrole]), if_neg (by simp [hen]), leaveHandler_eq, enterHandler_eq, scan_single hrole]

/-- Settles O37: the entry by the cases of a sample, the push by the cases of a press event. -/
theorem debounceKeyTransitions : Obligations.DebounceKeyTransitions := by
  intro s i k hk
  have hki := keyState_of_getElem? hk
  refine ⟨fun h0 => ?_, fun h0 h1 => ?_, fun h0 h1 => ?_, fun h0 => ?_, fun h0 => ?_⟩
  · rw [debounceKey_of_event (by rw [hki, pressEvent_idle h0]), hki, sampled_true_idle h0]
    rfl
  · rw [debounceKey_of_event (by rw [hki, pressEvent_pressed h0, decide_eq_true h1]), hki, sampled_true_pressed h0, if_pos h1]
    rfl
  · rw [debounceKey_of_no_event (by rw [hki, pressEvent_pressed h0, decide_eq_false h1]), hki, sampled_true_pressed h0,
      if_neg h1]
    rfl
  · rw [debounceKey_of_no_event pressEvent_false, hki, sampled_false_pressed h0]
    rfl
  · rw [debounceKey_of_no_event pressEvent_false, sampled_false_idle (by rw [hki, h0]), setKeyState_self]

/-- Settles O39: tick `n` is one asserted sample, a press event exactly on the event ticks (`pressEvent_heldFor`). -/
theorem heldKeyEvents : Obligations.HeldKeyEvents := by
  rintro s a b i n k hc hk hidle rfl rfl
  obtain ⟨hi, -⟩ := List.getElem?_eq_some_iff.mp hk
  have hki : (keyState s i).rel = 0 := by rw [keyState_of_getElem? hk, hidle]
  rw [← pressEvent_heldFor hc hi hki n]
  refine ⟨(keyState_heldFor_succ hc hi hki n).1, fun hev hroom => ?_, debounceKey_drops, debounceKey_quiet⟩
  have hstore := debounceKey_stores hev hroom
  rwa [(heldFor_frame i n s).1] at hstore

/-- Settles O40: the deasserted samples only run the release counter down (`releasedFor_spec`); short of 0 the key is still
pressed, so the next asserted sample takes the counts of a pressed key. -/
theorem glitchIsAbsorbed : Obligations.GlitchIsAbsorbed := by
  rintro s u i j p hc hn hk hj rfl
  obtain ⟨hi, -⟩ := List.getElem?_eq_some_iff.mp hk
  obtain ⟨hcfg, hlen, hwr, hmem, hrel, hrpt⟩ := releasedFor_spec hi j
  rw [keyState_of_getElem? hk] at hrel hrpt
  have hflag := keyPressedFlag_keyCode (s := releasedFor i j s) (hcfg ▸ hc) (hcfg ▸ hn)
  have hpressed (h : j < s.cfg.keycntRel.toNat) : (keyState (releasedFor i j s) i).rel ≠ 0 := by
    dsimp only at hrel
    bv_omega
  refine ⟨hrel, hrpt, hwr, hmem, fun h => ?_, fun h => ?_, fun h hp => ?_, fun h => ?_⟩
  · rw [hflag, bne_iff_ne]
    exact hpressed h
  · rw [keyState_debounceKey_self (hlen ▸ hi), sampled_true_pressed (hpressed h), hrpt, hcfg]
  · have hquiet : pressEvent (keyState (releasedFor i j s) i) true = false := by
      rw [pressEvent_pressed (hpressed h), hrpt, decide_eq_false hp]
    obtain ⟨hwr', hmem'⟩ := debounceKey_quiet hquiet
    exact ⟨hmem'.trans hmem, hwr'.trans hwr⟩
  · have h0 : (keyState (releasedFor i j s) i).rel = 0 := by
      dsimp only at hrel
      bv_omega
    rw [hflag, h0]
    rfl

/-- Settles O60: the entries by `debounceFrom_getElem?`, the queue by `debounceFrom_eq_pushAll`, the frame by
`debounceFrom_changes`. -/
theorem scanWorksKeyByKey : Obligations.ScanWorksKeyByKey := by
  rintro s u v as - rfl rfl
  have hpush := debounceFrom_eq_pushAll 0 as s
  rw [← scanCodes_eq] at hpush
  refine ⟨fun i a ha => ?_, by simp, congrArg (·.keys.qWr) hpush, congrArg (·.mem) hpush,
    debounceFrom_changes 0 as s⟩
  have hentry := debounceFrom_getElem? ha 0 s
  rw [Nat.zero_add] at hentry
  rw [hentry, debounceKey_getElem?_self]

end
end

section
/-! PROOF. First in, first out (44_input_event_queue.md R231, R236, R237): a push as what it reads back, the list of codes a queue
holds, and what pushes and pops make of it. -/

namespace Sys2Proof.Machine

open Sys2Proof

/-! ### Full and empty -/

/-- The ring is full exactly when it stores one event less than it has slots (R230). -/
theorem ringFull_iff_count {n rd wr : Nat} (hr : rd < n) (hw : wr < n) :
    (wr + 1) % n = rd ↔ (wr + n - rd) % n + 1 = n := by
  rw [ringCount_eq hr hw, mod_eq_ite_of_lt_two_mul (by omega)]
  split <;> split <;> omega

/-- The ring is empty exactly when it stores no event (R230). -/
theorem ringEmpty_iff_count {n rd wr : Nat} (hr : rd < n) (hw : wr < n) : rd = wr ↔ (wr + n - rd) % n = 0 := by
  rw [ringCount_eq hr hw]
  split <;> omega

theorem queueFull_iff (s : State) : queueFull s = true ↔ (s.keys.qWr + 1) % s.cfg.queueSlots = s.keys.qRd := by
  rw [queueFull, ringNext, beq_iff_eq]

theorem queueEmpty_iff (s : State) : queueEmpty s = true ↔ s.keys.qRd = s.keys.qWr := by
  rw [queueEmpty, beq_iff_eq]

section
variable {s : State}

/-! ### One push (R231) -/

theorem qPush_of_full (h : queueFull s = true) (c : Byte) : qPush s c = s := by
  rw [qPush, if_pos h]

theorem qPush_of_room (h : queueFull s = false) (c : Byte) :
    qPush s c = (memWrite s .qb s.keys.qWr c).withKeys { s.keys with qWr := ringNext s.cfg s.keys.qWr } := by
  obtain ⟨hfull, -⟩ | ⟨-, e⟩ := qPush_cases s c
  · exact absurd (hfull.symm.trans h) (by decide)
  · exact e

theorem qPush_qWr_of_room (h : queueFull s = false) (c : Byte) :
    (qPush s c).keys.qWr = (s.keys.qWr + 1) % s.cfg.queueSlots := by
  rw [qPush_of_room h]
  rfl

theorem memRead_qPush_same (h : queueFull s = false) (c : Byte) : memRead (qPush s c) .qb s.keys.qWr = some c := by
  rw [qPush_of_room h]
  exact memRead_memWrite_same s .qb _ c (by decide)

theorem memRead_qPush_other (c : Byte) {sp : Space} {a : Nat} (h : sp ≠ .qb ∨ a ≠ s.keys.qWr) :
    memRead (qPush s c) sp a = memRead s sp a := by
  obtain ⟨-, e⟩ | ⟨-, e⟩ := qPush_cases s c <;> rw [e]
  exact memRead_memWrite_other s .qb sp c h

/-! ### The codes a queue holds, the oldest first -/

/-- What the first part loses past `n`, the whole loses too. -/
theorem take_take_append {α : Type} (n : Nat) (xs ys : List α) : (xs.take n ++ ys).take n = (xs ++ ys).take n := by
  have hlen : n - min n xs.length = n - xs.length := by omega
  rw [List.take_append, List.take_append, List.take_take, Nat.min_self, List.length_take, hlen]

/-- The stored slots, from the read offset on, hold the codes of `xs` in order, and there are no others (R29, R233). -/
structure QueueHolds (s : State) (xs : List Byte) : Prop where
  wr_lt : s.keys.qWr < s.cfg.queueSlots
  rd_lt : s.keys.qRd < s.cfg.queueSlots
  count : queueCount s = xs.length
  slot : ∀ n c, xs[n]? = some c → memRead s .qb ((s.keys.qRd + n) % s.cfg.queueSlots) = some c

theorem queueHolds_nil (hw : s.keys.qWr < s.cfg.queueSlots) (he : s.keys.qRd = s.keys.qWr) : QueueHolds s [] where
  wr_lt := hw
  rd_lt := he ▸ hw
  count := (ringEmpty_iff_count (he ▸ hw) hw).mp he
  slot _ _ h := by simp at h

namespace QueueHolds

variable {xs : List Byte}

/-- A queue holds at most QUEUE_CAP codes. -/
theorem length_le (h : QueueHolds s xs) : xs.length ≤ s.cfg.queueCap := by
  rw [← h.count]
  exact Nat.le_of_lt_succ (Nat.mod_lt _ (queueSlots_pos s.cfg))

theorem full_iff (h : QueueHolds s xs) : queueFull s = true ↔ xs.length = s.cfg.queueCap := by
  rw [queueFull_iff, ringFull_iff_count h.rd_lt h.wr_lt, ← h.count, queueCount, Cfg.queueSlots, Nat.add_right_cancel_iff]

theorem empty_iff (h : QueueHolds s xs) : queueEmpty s = true ↔ xs = [] := by
  rw [queueEmpty_iff, ringEmpty_iff_count h.rd_lt h.wr_lt, ← List.length_eq_zero_iff, ← h.count, queueCount]

/-- A push onto a queue with room is stored behind the codes held. -/
theorem push_of_room (h : QueueHolds s xs) (hroom : queueFull s = false) (c : Byte) :
    QueueHolds (qPush s c) (xs ++ [c]) := by
  have hne : (s.keys.qWr + 1) % s.cfg.queueSlots ≠ s.keys.qRd := fun e => by simp [(queueFull_iff s).mpr e] at hroom
  have hcount := h.count
  rw [queueCount] at hcount
  refine ⟨?_, by simpa using h.rd_lt, ?_, fun n b hb => ?_⟩
  · rw [qPush_qWr_of_room hroom, (qPush_frame s c).1]
    exact Nat.mod_lt _ (queueSlots_pos _)
  · rw [queueCount, qPush_qWr_of_room hroom, (qPush_frame s c).1, (qPush_keys s c).1,
      ringCount_push h.rd_lt h.wr_lt hne, hcount, List.length_append, List.length_singleton]
  · rw [(qPush_frame s c).1, (qPush_keys s c).1]
    have hn : n < xs.length + 1 := by simpa using (List.getElem?_eq_some_iff.mp hb).1
    obtain hlt | heq := Nat.lt_succ_iff_lt_or_eq.mp hn
    · rw [List.getElem?_append_left hlt] at hb
      rw [memRead_qPush_other c (.inr (ringSlot_ne h.rd_lt h.wr_lt (hcount ▸ hlt))), h.slot n b hb]
    · obtain rfl : c = b := by simpa [heq] using hb
      rw [heq, ← hcount, ringSlot_count h.rd_lt h.wr_lt, memRead_qPush_same hroom]

/-- One push keeps the oldest QUEUE_CAP codes (R231, R237). -/
theorem push (h : QueueHolds s xs) (c : Byte) : QueueHolds (qPush s c) ((xs ++ [c]).take s.cfg.queueCap) := by
  cases hf : queueFull s with
  | true =>
    rw [qPush_of_full hf, ← h.full_iff.mp hf, List.take_append_length]
    exact h
  | false =>
    have hstored := h.push_of_room hf c
    have hle := hstored.length_le
    rw [(qPush_frame s c).1] at hle
    rwa [List.take_of_length_le hle]

/-- Pushes with no pop in between keep the oldest QUEUE_CAP codes (R237). -/
theorem pushes (h : QueueHolds s xs) (l : List Byte) :
    QueueHolds (pushAll l s) ((xs ++ l).take s.cfg.queueCap) := by
  induction l generalizing s xs with
  | nil => rwa [List.append_nil, List.take_of_length_le h.length_le]
  | cons c cs ih =>
    have hrest := ih (h.push c)
    have hkept : ((xs ++ [c]).take s.cfg.queueCap ++ cs).take s.cfg.queueCap = (xs ++ c :: cs).take s.cfg.queueCap := by
      rw [take_take_append, List.append_assoc, List.singleton_append]
    rwa [(qPush_frame s c).1, hkept] at hrest

/-- A pop returns the oldest code and leaves the others (R232, R236). -/
theorem pop {c : Byte} (h : QueueHolds s (c :: xs)) : ∃ t, qPop s = .code c t ∧ QueueHolds t xs := by
  have hne : queueEmpty s = false := by simpa using h.empty_iff.not
  have hread : memRead s .qb s.keys.qRd = some c := by
    simpa [Nat.mod_eq_of_lt h.rd_lt] using h.slot 0 c rfl
  refine ⟨s.withKeys { s.keys with qRd := ringNext s.cfg s.keys.qRd }, by simp [qPop, hne, hread],
    h.wr_lt, Nat.mod_lt _ (queueSlots_pos _), ?_, fun n b hb => ?_⟩
  · have hoff : s.keys.qRd ≠ s.keys.qWr := by simpa [queueEmpty] using hne
    exact Nat.succ.inj ((ringCount_pop h.rd_lt h.wr_lt hoff).trans h.count)
  · have hslot : (ringNext s.cfg s.keys.qRd + n) % s.cfg.queueSlots = (s.keys.qRd + (n + 1)) % s.cfg.queueSlots := by
      rw [ringNext, Nat.mod_add_mod, Nat.add_assoc, Nat.add_comm 1]
    exact (congrArg (memRead s .qb) hslot).trans (h.slot (n + 1) b hb)

/-- Pops drain the codes held in order, then return NOKEY (R236, R237). -/
theorem popMany_eq (h : QueueHolds s xs) (n : Nat) : popMany n s = (xs ++ List.replicate n noKeyCode).take n := by
  induction n generalizing s xs with
  | zero => rfl
  | succ n ih =>
    cases xs with
    | nil =>
      have hpop : qPop s = .code noKeyCode s := by rw [qPop, if_pos (h.empty_iff.mpr rfl)]
      rw [popMany, hpop]
      exact congrArg (noKeyCode :: ·) (ih h)
    | cons c cs =>
      obtain ⟨t, hpop, ht⟩ := h.pop
      rw [popMany, hpop]
      simp [ih ht, List.replicate_succ', ← List.append_assoc, List.take_append]

end QueueHolds

end

end Sys2Proof.Machine

section
open Sys2Proof Sys2Proof.Machine

/-- Settles O38: the test of R231 is Q_FULL; then the two cases of `qPush`. -/
theorem pushStoresOrDrops : Obligations.PushStoresOrDrops := by
  intro s c
  refine ⟨fun hfull => qPush_of_full ((queueFull_iff s).mpr hfull) c, fun hroom => ?_⟩
  have hf : queueFull s = false := by simpa using mt (queueFull_iff s).mp hroom
  refine ⟨?_, memRead_qPush_same hf c, fun sp a => memRead_qPush_other c⟩
  rw [qPush_of_room hf]
  rfl

/-- Settles O41: the pushes keep the oldest codes (`QueueHolds.pushes`), the pops drain them (`QueueHolds.popMany_eq`). -/
theorem queueKeepsOldestInOrder : Obligations.QueueKeepsOldestInOrder := by
  intro s l n hw he
  exact ((queueHolds_nil hw he).pushes l).popMany_eq n

end
end

section
/-! PROOF. The host API (45_host_api.md): the guards every host operation passes, the answer of each operation on the states its
rule speaks of, and over all operations what can end a WaitVSync and what can change an enable or the mode. -/

namespace Sys2Proof.Machine

open Sys2Proof

section
variable {s t : State} {i : Instr}

/-! ### The guards (R246, R250, R263) -/

theorem hostStep_of_waiting (hr : s.cfg.role ≠ .input) (hw : s.host.wv ≠ .none) (k : Answer) :
    hostStep s k = .refused .hostWaiting := by
  simp [hostStep, hasDisplay, hr, hw]

theorem hostStep_needKeys_of_ready (h : HostReady s) (hk : s.host.keyReady = true) (k : Answer) :
    hostStep s (needKeys s k) = k :=
  (hostStep_of_ready h _).trans (needKeys_of_ready hk k)

theorem hostStep_needDisplay_of_ready (h : HostReady s) (hd : s.host.dispReady = true) (k : Answer) :
    hostStep s (needDisplay s k) = k :=
  (hostStep_of_ready h _).trans (needDisplay_of_ready hd k)

theorem hostStep_needKeys_of_not_ready (h : HostReady s) (hk : s.host.keyReady = false) (k : Answer) :
    hostStep s (needKeys s k) = .fault .keysNotInitialised :=
  (hostStep_of_ready h _).trans (if_neg (by simp [hk]))

theorem hostStep_needDisplay_of_not_ready (h : HostReady s) (hd : s.host.dispReady = false) (k : Answer) :
    hostStep s (needDisplay s k) = .fault .displayNotInitialised :=
  (hostStep_of_ready h _).trans (if_neg (by simp [hd]))

/-- Every host operation, and NOKEY, stands behind the host's guard. -/
theorem exec_eq_hostStep (hi : isHostOp i = true ∨ i = .noKey) (s : State) : ∃ k, exec i s = hostStep s k := by
  cases i
  case keyGet | joyGet | keyPressed | keyFlush | waitVSync | dispIsVSync | dispInit | dispTerm | keyInit | keyTerm
      | rdScanline | rdFrame | fbWrite | fbRead | atWrite | atRead | noKey => exact ⟨_, rfl⟩
  all_goals simp [isHostOp, Instr.space] at hi

/-! ### A HOST event and the operation its word spells -/

theorem exec_effective_eq (i : Instr) (s : State) : exec (effective i) s = exec i s := by
  cases i
  case host w =>
    cases hd : decodeH32 w with
    | none => simp only [effective, hd, Option.getD_none]
    | some j => simp only [effective, hd, Option.getD_some, exec_host hd]
  all_goals rfl

/-- Only a HOST event performs an operation other than itself, and that is a host operation. -/
theorem effective_eq_self (h : isHostOp (effective i) = false) : effective i = i := by
  cases i
  case host w =>
    cases hd : decodeH32 w with
    | none => simp only [effective, hd, Option.getD_none]
    | some j =>
      have hj : effective (.host w) = j := by simp only [effective, hd, Option.getD_some]
      rw [hj, isHostOp_decodeH32 hd] at h
      cases h
  all_goals rfl

/-! ### The keys and the queue (R246 to R249) -/

theorem popKey_of_empty (h : s.keys.qRd = s.keys.qWr) : popKey s = .next (giveResult s (.byte noKeyCode)) := by
  rw [popKey, qPop, if_pos ((queueEmpty_iff s).mpr h)]

theorem popKey_of_stored {c : Byte} (h : s.keys.qRd ≠ s.keys.qWr) (hc : memRead s .qb s.keys.qRd = some c) :
    popKey s = .next (giveResult (s.withKeys { s.keys with qRd := ringNext s.cfg s.keys.qRd }) (.byte c)) := by
  rw [popKey, qPop, if_neg (mt (queueEmpty_iff s).mp h), hc]

theorem keyPressedFlag_of_listed {code : Byte} {k : KeyState} (h1 : 1 ≤ code.toNat) (hn : code.toNat ≤ s.cfg.nkey)
    (hk : s.keys.ks[code.toNat - 1]? = some k) : keyPressedFlag s code = (k.rel != 0) := by
  have hstate : keyState s (code.toNat - 1) = k := by rw [keyState, List.getD_eq_getElem?_getD, hk, Option.getD_some]
  rw [keyPressedFlag, if_pos ⟨h1, hn⟩, hstate]

theorem keyPressedFlag_of_unlisted {code : Byte} (h : code.toNat = 0 ∨ s.cfg.nkey < code.toNat) :
    keyPressedFlag s code = false :=
  if_neg (by omega)

/-! ### WaitVSync (R250) -/

theorem isVBlank_eq_false_iff (s : State) : isVBlank s = false ↔ s.lineClass = .active := by
  rw [isVBlank, bne_eq_false_iff_eq]

theorem isVBlank_iff (s : State) : isVBlank s = true ↔ s.lineClass ≠ .active := by
  rw [isVBlank, bne_iff_ne]

/-- The class of the line is read from the configuration and the display group, which a poll keeps. -/
theorem isVBlank_pollWait (s : State) : isVBlank (pollWait s) = isVBlank s := by
  simp [isVBlank, State.lineClass, State.profile]

/-- A poll ends a wait only from phase B, and only in blanking. -/
theorem phaseB_blank_of_pollWait (hw : s.host.wv ≠ .none) (h : (pollWait s).host.wv = .none) :
    s.host.wv = .phaseB ∧ isVBlank s = true := by
  cases hb : isVBlank s with
  | true =>
    rw [pollWait_blank hb, State.withHost_host] at h
    exact ⟨by_contra fun hne => hw (by simpa [hne] using h), rfl⟩
  | false =>
    rw [pollWait_active hb, State.withHost_host] at h
    split at h
    · cases h
    · exact absurd h hw

/-- A host operation and NOKEY complete only outside a wait. -/
theorem wv_eq_none_of_exec (hi : isHostOp i = true ∨ i = .noKey) (h : exec i s = .next t) : s.host.wv = .none := by
  obtain ⟨k, hk⟩ := exec_eq_hostStep hi s
  obtain ⟨-, hwv, -⟩ := hostStep_next (hk.symm.trans h)
  exact hwv

/-- Outside the host, TICK and NOKEY, no operation touches the host's side. -/
theorem exec_host_eq (hi : isHostOp i = false) (hw : ∀ w, i ≠ .host w) (ht : i ≠ .tick) (hn : i ≠ .noKey)
    (h : exec i s = .next t) : t.host = s.host := by
  cases i
  case host w => exact absurd rfl (hw w)
  case tick => exact absurd rfl ht
  case noKey => exact absurd rfl hn
  case sync => obtain ⟨-, rfl⟩ := execSync_next h; simp
  case rowHigh => obtain ⟨-, rfl⟩ := execRowHigh_next h; simp
  case rowLow => obtain ⟨-, rfl⟩ := execRowLow_next h; simp
  case syncAck => obtain ⟨-, rfl⟩ := execSyncAck_next h; simp
  case coldata => obtain rfl | rfl := execColdata_next h <;> simp
  case serRead => obtain ⟨-, -, -, rfl⟩ := execSerRead_next h; simp
  case keyTick => obtain ⟨-, -, rfl⟩ := execKeyTick_next h; simp
  case dlvD2I => obtain ⟨-, _, _, -, rfl⟩ := execDlvD2I_next h; rfl
  case dlvI2D => obtain ⟨-, _, _, -, rfl⟩ := execDlvI2D_next h; rfl
  case dropD2I => obtain ⟨-, _, _, -, rfl⟩ := execDropD2I_next h; rfl
  case dropI2D => obtain ⟨-, _, _, -, rfl⟩ := execDropI2D_next h; rfl
  case garbleD2I => obtain ⟨-, _, _, -, rfl⟩ := execGarbleD2I_next h; rfl
  case garbleI2D => obtain ⟨-, _, _, -, rfl⟩ := execGarbleI2D_next h; rfl
  case rspStep => obtain ⟨-, _, _, -, rfl⟩ := execRspStep_next h; simp
  case envKeyIn => obtain ⟨-, -, rfl⟩ := execEnvKeyIn_next h; rfl
  case envColIn => obtain ⟨-, rfl⟩ := execEnvColIn_next h; rfl
  case lcActive | lcFront | lcVSync | lcBack => obtain ⟨-, -, -, rfl⟩ := lineClassStep_next h; simp
  all_goals simp [isHostOp, Instr.space] at hi

/-- Of all operations only TICK ends a wait. -/
theorem tick_of_wait_ended (hw : s.host.wv ≠ .none) (h : exec i s = .next t) (ht : t.host.wv = .none) : i = .tick := by
  obtain ⟨he, hnh⟩ := exec_effective h
  cases hi : isHostOp (effective i) with
  | true => exact absurd (wv_eq_none_of_exec (.inl hi) he) hw
  | false =>
    have hself : effective i = i := effective_eq_self hi
    rw [hself] at hi hnh
    by_contra hne
    have hnk : i ≠ .noKey := fun e => hw (wv_eq_none_of_exec (.inr e) h)
    exact hw (exec_host_eq hi hnh hne hnk h ▸ ht)

/-! ### KeyInit (R254) -/

/-- KeyInit on a display chip replaces the bytes of RM that CFG.REMAP lists (20_memory.md R64). -/
theorem memRead_keyInitProtocol_rm (s : State) (b : Nat) :
    memRead (keyInitProtocol s) .rm b = (s.cfg.remap[b]?).or (memRead s .rm b) := by
  have hrun := memRead_memWriteFrom .rm 0 s.cfg.remap s (by decide) b
  rw [if_pos (Nat.zero_le b), Nat.sub_zero] at hrun
  refine Eq.trans (memRead_congr .rm b rfl (by simp)) (hrun.trans ?_)
  cases s.cfg.remap[b]? <;> rfl

theorem memRead_keyInitProtocol_other (s : State) {sp : Space} (hsp : sp ≠ .rm) (a : Nat) :
    memRead (keyInitProtocol s) sp a = memRead s sp a :=
  (memRead_congr sp a rfl (fun _ => rfl)).trans (memRead_memWriteFrom_other .rm sp 0 s.cfg.remap s hsp a)

/-- The part of KeyInit that every chip has leaves the memory alone. -/
theorem memRead_keyInitKeys (s : State) (sp : Space) (a : Nat) : memRead (keyInitKeys s) sp a = memRead s sp a :=
  memRead_congr sp a rfl (fun _ => rfl)

/-! ### The buffers (R258 to R261; 20_memory.md R67) -/

/-- While the display runs the bounds of the buffers are those of its mode. -/
theorem limits_of_runs (h : s.video.dispEn = true) : fbLimit s = s.profile.fbSize ∧ atLimit s = s.profile.atSize :=
  ⟨if_pos h, if_pos h⟩

section
variable {sp : Space} {limit : Nat} {a : BitVec 16}

theorem hostWrite_inside (h : HostReady s) (hsp : sp ≠ .fn) (ha : a.toNat < limit) (v : Byte) :
    ∃ t, hostWrite sp limit a v s = .next t ∧
      t = { s with mem := t.mem, host := { s.host with res := .none } } ∧
      memRead t sp a.toNat = some v ∧
      ∀ sp' b, sp' ≠ sp ∨ b ≠ a.toNat → memRead t sp' b = memRead s sp' b := by
  have hread (sp' : Space) (b : Nat) :
      memRead (giveResult (memWrite s sp a.toNat v) .none) sp' b = memRead (memWrite s sp a.toNat v) sp' b :=
    memRead_congr sp' b rfl (fun _ => rfl)
  refine ⟨_, (hostStep_of_ready h _).trans (if_pos ha), ?_, ?_, fun sp' b hb => ?_⟩
  · cases sp <;> rfl
  · rw [hread, memRead_memWrite_same s sp _ v hsp]
  · rw [hread, memRead_memWrite_other s sp sp' v hb]

theorem hostWrite_outside (h : HostReady s) (ha : limit ≤ a.toNat) (v : Byte) :
    hostWrite sp limit a v s = .refused .outOfRange :=
  (hostStep_of_ready h _).trans (if_neg (Nat.not_lt.mpr ha))

theorem hostRead_written {v : Byte} (h : HostReady s) (ha : a.toNat < limit) (hv : memRead s sp a.toNat = some v) :
    hostRead sp limit a s = .next (giveResult s (.byte v)) :=
  (hostStep_of_ready h _).trans ((if_pos ha).trans (by rw [hv]))

theorem hostRead_unwritten (h : HostReady s) (ha : a.toNat < limit) (hv : memRead s sp a.toNat = none) :
    hostRead sp limit a s = .fault (.unwrittenByte sp a.toNat) :=
  (hostStep_of_ready h _).trans ((if_pos ha).trans (by rw [hv]))

theorem hostRead_outside (h : HostReady s) (ha : limit ≤ a.toNat) : hostRead sp limit a s = .refused .outOfRange :=
  (hostStep_of_ready h _).trans (if_neg (Nat.not_lt.mpr ha))

end

/-! ### The enables and the mode (R263; 10_state.md R21, R27) -/

theorem popKey_keyEn (h : popKey s = .next t) : t.keys.keyEn = s.keys.keyEn := by
  obtain ⟨-, rfl⟩ | ⟨c, -, -, rfl⟩ := popKey_next h <;> rfl

/-- Of the host operations only KeyInit and KeyTerm write KEY_EN. -/
theorem exec_host_keyEn_eq (hi : isHostOp i = true) (h1 : i ≠ .keyInit) (h2 : i ≠ .keyTerm) (h : exec i s = .next t) :
    t.keys.keyEn = s.keys.keyEn := by
  cases i
  case keyInit => exact absurd rfl h1
  case keyTerm => exact absurd rfl h2
  case keyGet => obtain ⟨-, -, -, h⟩ := execKeyGet_next h; exact popKey_keyEn h
  case joyGet => obtain ⟨-, -, -, h⟩ := execJoyGet_next h; exact popKey_keyEn h
  case keyPressed => obtain ⟨-, -, -, rfl⟩ := execKeyPressed_next h; rfl
  case keyFlush => obtain ⟨-, -, -, rfl⟩ := execKeyFlush_next h; rfl
  case waitVSync => obtain ⟨-, -, rfl⟩ := execWaitVSync_next h; simp
  case dispIsVSync => obtain ⟨-, -, -, rfl⟩ := execDispIsVSync_next h; rfl
  case dispInit => obtain ⟨-, -, -, -, rfl⟩ := execDispInit_next h; rfl
  case dispTerm => obtain ⟨-, -, rfl⟩ := execDispTerm_next h; rfl
  case rdScanline => obtain ⟨-, -, -, rfl⟩ := execRdScanline_next h; rfl
  case rdFrame => obtain ⟨-, -, -, rfl⟩ := execRdFrame_next h; rfl
  case fbWrite | atWrite => obtain ⟨-, -, -, rfl⟩ := hostWrite_next h; rfl
  case fbRead | atRead => obtain ⟨-, -, -, v, -, rfl⟩ := hostRead_next h; rfl
  all_goals simp [isHostOp, Instr.space] at hi

/-- Of the host operations only DispInit writes MODE. -/
theorem exec_host_mode_eq (hi : isHostOp i = true) (h1 : ∀ m, i ≠ .dispInit m) (h : exec i s = .next t) :
    t.video.mode = s.video.mode := by
  by_cases h2 : i = .dispTerm
  · subst h2
    obtain ⟨-, -, rfl⟩ := execDispTerm_next h
    rfl
  · rw [(hostEffect_of_exec hi h).video_eq h1 h2]

theorem VideoEffect.mode_eq {v : Video} (h : VideoEffect s v) : v.mode = s.video.mode := by
  cases h with
  | kept => rfl
  | line u hu => obtain rfl | rfl := hu <;> simp
  | read => simp [serReadByte_video]

end

end Sys2Proof.Machine

/-! ### The statements -/

section
open Sys2Proof Sys2Proof.Machine

/-- Settles O45: the host's guard refuses every host operation, and TICK's poll is the only way out of the wait. -/
theorem waitVSyncReturnsInBlanking : Obligations.WaitVSyncReturnsInBlanking := by
  intro i s t hw
  refine ⟨fun hrole hi => ?_, fun h ht => ?_⟩
  · obtain ⟨k, hk⟩ := exec_eq_hostStep (.inl hi) s
    rw [← exec_effective_eq, hk, hostStep_of_waiting hrole hw]
  · obtain rfl := tick_of_wait_ended hw h ht
    obtain ⟨-, -, rfl⟩ := execTick_next h
    rw [isVBlank_pollWait]
    simpa using phaseB_blank_of_pollWait (by simpa using hw) ht

/-- Settles O47: the forms a host operation's next state can have, and the others keep the enables and the mode. -/
theorem onlyInitAndTermChangeAnEnable : Obligations.OnlyInitAndTermChangeAnEnable := by
  intro i s t h
  obtain ⟨he, hnh⟩ := exec_effective h
  cases hi : isHostOp (effective i) with
  | true =>
    refine ⟨fun hd => ?_, fun hm => ?_, fun hk => ?_⟩ <;> by_contra! hno
    · exact hd (congrArg Video.dispEn ((hostEffect_of_exec hi he).video_eq hno.1 hno.2))
    · exact hm (exec_host_mode_eq hi hno he)
    · exact hk (exec_host_keyEn_eq hi hno.1 hno.2 he)
  | false =>
    obtain ⟨hv, -⟩ := exec_videoEffect hi hnh he
    obtain ⟨-, hk⟩ := exec_keptOrScanned hi hnh he
    exact ⟨absurd hv.dispEn_eq, absurd hv.mode_eq, absurd hk.keyEn_eq⟩

/-- Settles O12: the guards let the pop through, and both operations are that pop. -/
theorem keyGetPopsOneEvent : Obligations.KeyGetPopsOneEvent := by
  intro s h hk
  refine ⟨fun he => ?_, fun c hne hc => ?_⟩
  · have hpop := (hostStep_needKeys_of_ready h hk _).trans (popKey_of_empty he)
    exact ⟨hpop, hpop⟩
  · have hpop := (hostStep_needKeys_of_ready h hk _).trans (popKey_of_stored hne hc)
    exact ⟨hpop, hpop⟩

/-- Settles O13: the guards let the answer through, which is the flag of a listed or of an unlisted code. -/
theorem keyPressedAnswers : Obligations.KeyPressedAnswers := by
  intro s code h hk
  have hans : exec (.keyPressed code) s = .next (giveResult s (.bit (keyPressedFlag s code))) :=
    hostStep_needKeys_of_ready h hk _
  refine ⟨fun k h1 hn hks => ?_, fun hcode => ?_⟩
  · rw [hans, keyPressedFlag_of_listed h1 hn hks]
    rfl
  · rw [hans, keyPressedFlag_of_unlisted hcode]
    rfl

/-- Settles O14: the guards let the flush through. -/
theorem keyFlushEmptiesTheQueue : Obligations.KeyFlushEmptiesTheQueue := by
  intro s h hk
  exact hostStep_needKeys_of_ready h hk _

/-- Settles O15: the host enters phase A and polls once, on the line in progress. -/
theorem waitVSyncEntersItsPhases : Obligations.WaitVSyncEntersItsPhases := by
  intro s h
  let u := s.withHost { s.host with wv := .phaseA, res := .none }
  have hpoll : exec .waitVSync s = .next (pollWait u) := hostStep_of_ready h _
  refine ⟨fun hc => ?_, fun hc => ?_⟩
  · rw [hpoll, pollWait_active ((isVBlank_eq_false_iff u).mpr hc)]
    rfl
  · rw [hpoll, pollWait_blank ((isVBlank_iff u).mpr hc)]
    rfl

/-- Settles O16: the guards let each read through. -/
theorem rasterReads : Obligations.RasterReads := by
  intro s h hd
  exact ⟨hostStep_needDisplay_of_ready h hd _, hostStep_needDisplay_of_ready h hd _,
    hostStep_needDisplay_of_ready h hd _⟩

/-- Settles O17: the operation's own two tests, behind the host's guard. -/
theorem dispInitStartsTheDisplay : Obligations.DispInitStartsTheDisplay := by
  intro s m h
  have hstopped (hd : s.video.dispEn = false) : ¬ s.video.dispEn = true := by simp [hd]
  refine ⟨fun hd hm => ?_, fun hd hm => ?_, fun hd => ?_⟩ <;> refine (hostStep_of_ready h _).trans ?_
  · rw [if_neg (hstopped hd), if_neg (Nat.not_le.mpr hm)]
    rfl
  · rw [if_neg (hstopped hd), if_pos hm]
  · rw [if_pos hd]

/-- Settles O18: neither operation has a precondition of its own. -/
theorem termOperationsStop : Obligations.TermOperationsStop := by
  intro s h
  exact ⟨hostStep_of_ready h _, hostStep_of_ready h _⟩

/-- Settles O19: the test of KEY_EN, then the role; on a display chip the memory is that of the run of writes to RM. -/
theorem keyInitInitialises : Obligations.KeyInitInitialises := by
  intro s h
  have hidle (hk : s.keys.keyEn = false) : ¬ s.keys.keyEn = true := by simp [hk]
  refine ⟨fun hk hr => ?_, fun hk hr => ?_, fun hk => (hostStep_of_ready h _).trans (if_pos hk)⟩
  · refine (hostStep_of_ready h _).trans ?_
    rw [if_neg (hidle hk), hr]
    rfl
  · have hexec : exec .keyInit s = .next (keyInitKeys (keyInitProtocol s)) := by
      refine (hostStep_of_ready h _).trans ?_
      rw [if_neg (hidle hk), hr]
    refine ⟨_, hexec, ?_, fun b v hb => ?_, fun b hb => ?_, fun sp a hsp => ?_⟩
    · simp [keyInitKeys, keyInitProtocol, State.withKeys, State.withHost, State.withIni]
    · rw [memRead_keyInitKeys, memRead_keyInitProtocol_rm, hb, Option.some_or]
    · rw [memRead_keyInitKeys, memRead_keyInitProtocol_rm, hb, Option.none_or]
    · rw [memRead_keyInitKeys, memRead_keyInitProtocol_other s hsp]

/-- Settles O20: both operations are one host write, each to its own buffer and below its own bound. -/
theorem bufferWrites : Obligations.BufferWrites := by
  intro s a v h
  exact ⟨limits_of_runs, fun ha => hostWrite_inside h (by decide) ha v, fun ha => hostWrite_outside h ha v,
    fun ha => hostWrite_inside h (by decide) ha v, fun ha => hostWrite_outside h ha v⟩

/-- Settles O21: both operations are one host read, each of its own buffer and below its own bound. -/
theorem bufferReads : Obligations.BufferReads := by
  intro s a v h
  exact ⟨limits_of_runs, hostRead_written h, hostRead_outside h, hostRead_written h, hostRead_outside h⟩

/-- Settles O51: the guards of R263, and a read of a byte that holds no value. -/
theorem uninitialisedReadsFault : Obligations.UninitialisedReadsFault := by
  intro s code a h
  exact ⟨fun hd => ⟨hostStep_needDisplay_of_not_ready h hd _, hostStep_needDisplay_of_not_ready h hd _,
      hostStep_needDisplay_of_not_ready h hd _⟩,
    fun hk => ⟨hostStep_needKeys_of_not_ready h hk _, hostStep_needKeys_of_not_ready h hk _,
      hostStep_needKeys_of_not_ready h hk _, hostStep_needKeys_of_not_ready h hk _⟩,
    hostRead_unwritten h, hostRead_unwritten h⟩

end
end

section
/-! PROOF. What the steps outside the host leave of the host's own state (10_state.md R52; R286, R287): the bytes of FB and AT,
the read offset of the queue, and the result handed to the host. -/

namespace Sys2Proof.Machine

open Sys2Proof

section
variable {s t : State} {i : Instr}

/-- A scan step writes the queue memory only, so every other space but the font reads as before. -/
theorem KeptOrScanned.memRead_eq (h : KeptOrScanned s t) {sp : Space} (hqb : sp ≠ .qb) (hfn : sp ≠ .fn) (a : Nat) :
    memRead t sp a = memRead s sp a := by
  obtain ⟨-, hm⟩ | ⟨u, -, -, hu, -, hm⟩ := h
  · exact memRead_congr sp a hm (absurd · hfn)
  · calc memRead t sp a
        = memRead (scan u) sp a := memRead_congr sp a hm (absurd · hfn)
      _ = memRead u sp a := scan_memRead u hqb a
      _ = memRead s sp a := memRead_congr sp a hu (absurd · hfn)

/-- A scan step pushes at the write offset; the read offset stays. -/
theorem KeptOrScanned.qRd_eq (h : KeptOrScanned s t) : t.keys.qRd = s.keys.qRd := by
  obtain ⟨hk, -⟩ | ⟨u, -, hu, -, hk, -⟩ := h
  · rw [hk]
  · rw [hk, (scan_keys u).1, hu]

/-- Outside the host and NOKEY no operation hands over a result: TICK's poll moves the wait only, and the others leave the host's
side alone. -/
theorem exec_res_eq (hi : isHostOp i = false) (hw : ∀ w, i ≠ .host w) (hn : i ≠ .noKey) (h : exec i s = .next t) :
    t.host.res = s.host.res := by
  by_cases ht : i = .tick
  · subst ht
    obtain ⟨-, -, rfl⟩ := execTick_next h
    simp [pollWait_host]
  · rw [exec_host_eq hi hw ht hn h]

end

end Sys2Proof.Machine

/-! ### The statement -/

section
open Sys2Proof Sys2Proof.Machine

/-- Settles O48: such an operation reaches the keys and the memory by a scan step only, and the display group and the host's side
by the actions of a line, which write neither enable and no result. -/
theorem onlyTheHostWritesItsState : Obligations.OnlyTheHostWritesItsState := by
  intro i s t hi hn h
  obtain ⟨-, hw⟩ := exec_effective h
  have hself : effective i = i := effective_eq_self hi
  rw [hself] at hi hw
  obtain ⟨-, hkept⟩ := exec_keptOrScanned hi hw h
  obtain ⟨hvideo, hdispReady, hkeyReady⟩ := exec_videoEffect hi hw h
  exact ⟨hkept.memRead_eq (by decide) (by decide), hkept.memRead_eq (by decide) (by decide), hkept.qRd_eq,
    hvideo.dispEn_eq, hkept.keyEn_eq, exec_res_eq hi hw hn h, hdispReady, hkeyReady⟩

end
end

section
/-! PROOF. The raster from line to line and the machine after reset (70_reset_and_hazards.md R301, R325): what every step keeps of
SL, VSYNC_OUT and TICK_PEND, that reset meets each invariant in any legal configuration, and the steps reset leaves disabled. -/

namespace Sys2Proof.Machine

open Sys2Proof

/-! ### The raster -/

/-- The invariant sees the configuration and the display group. -/
theorem RasterInv.congr {s t : State} (h : RasterInv s) (hc : t.cfg = s.cfg) (hv : t.video = s.video) : RasterInv t := by
  simpa only [RasterInv, ConfigOk, State.lineClass, State.profile, hc, hv] using h

/-- A legal profile has an active line (00_scope.md R7). -/
theorem vActive_pos_of_legal {p : VideoProfile} (h : p.legal = true) : 0 < p.vActive := by
  simp only [VideoProfile.legal, Bool.and_eq_true, decide_eq_true_eq] at h
  tauto

/-- Line 0 is an active line, so VSYNC_OUT is not asserted on it, whether the display runs or not. -/
theorem rasterInv_of_line_zero {s : State} (hc : ConfigOk s) (hsl : s.video.sl = 0) (hv : s.video.vsyncOut = false)
    (ht : s.video.tickPend = false) : RasterInv s := by
  have hactive : 0 < s.profile.vActive := vActive_pos_of_legal hc.profile_legal
  have htotal : s.profile.vTotal = bpStart s.profile + s.profile.vBp := vTotal_of_legal hc.profile_legal
  have hclass : s.lineClass = .active := (classify_eq_active _ _).mpr (by simpa [hsl] using hactive)
  refine ⟨hc, ?_, by simp [hv, hclass], ht⟩
  rw [bpStart] at htotal
  rw [hsl, show (0 : BitVec 16).toNat = 0 from rfl]
  omega

/-- SL stays in the frame when it advances (R122). -/
theorem advanceCounters_sl_lt {s : State} (hc : ConfigOk s) (hsl : s.video.sl.toNat < s.profile.vTotal) :
    (advanceCounters s).video.sl.toNat < s.profile.vTotal := by
  rw [advanceCounters_sl_toNat hc.vTotal_le hsl]
  exact Nat.mod_lt _ (Nat.zero_lt_of_lt hsl)

/-- The action of a line sets VSYNC_OUT by the line's class, whatever it was before (R26, R121). -/
theorem lineAction_rasterInv {s : State} (hc : ConfigOk s) (hsl : s.video.sl.toNat < s.profile.vTotal)
    (ht : s.video.tickPend = false) (hd : s.video.dispEn = true) : RasterInv (lineAction s.lineClass s) := by
  have hp (c : LineClass) : (lineAction c s).profile = s.profile := by simp [State.profile]
  have hclass (c : LineClass) : (lineAction c s).lineClass = s.lineClass := by simp [State.lineClass, hp]
  exact ⟨hc.congr (by simp) (by simp), by simpa [hp] using hsl, by simp [hclass, hd, vsyncFlag], by simpa using ht⟩

theorem VideoEffect.rasterInv {s t : State} (h : VideoEffect s t.video) (hc : t.cfg = s.cfg) (hs : RasterInv s) :
    RasterInv t := by
  generalize hv : t.video = v at h
  cases h with
  | kept => exact hs.congr hc hv
  | line u hu hd =>
    obtain ⟨hok, hsl, -, ht⟩ := hs
    have hinv : RasterInv (lineAction u.lineClass u) := by
      obtain rfl | rfl := hu
      · exact lineAction_rasterInv hok hsl ht hd
      · exact lineAction_rasterInv (hok.congr (by simp) (by simp)) (by simpa using advanceCounters_sl_lt hok hsl) (by simp)
          (by simpa using hd)
    have hcu : u.cfg = s.cfg := by obtain rfl | rfl := hu <;> simp
    exact hinv.congr (by simp [hc, hcu]) hv
  | read =>
    have hread : RasterInv (serReadByte s) := by
      simpa only [RasterInv, ConfigOk, State.lineClass, State.profile, serReadByte_frame, serReadByte_video] using hs
    exact hread.congr (by simp [hc]) hv

/-- DispInit starts at line 0, DispTerm leaves VSYNC_OUT deasserted, and no other host operation touches the display group. -/
theorem exec_host_rasterInv {i : Instr} {s t : State} (hi : isHostOp i = true) (h : exec i s = .next t)
    (hs : RasterInv s) : RasterInv t := by
  by_cases h1 : ∃ m, i = .dispInit m
  · obtain ⟨m, rfl⟩ := h1
    obtain ⟨-, -, -, hm, rfl⟩ := execDispInit_next h
    exact rasterInv_of_line_zero ⟨hs.1.1, hm⟩ rfl rfl rfl
  · by_cases h2 : i = .dispTerm
    · subst h2
      obtain ⟨-, -, rfl⟩ := execDispTerm_next h
      obtain ⟨hok, hsl, -, -⟩ := hs
      exact ⟨hok, hsl, rfl, rfl⟩
    · have he := hostEffect_of_exec hi h
      exact hs.congr he.frame.1 (he.video_eq (fun m e => h1 ⟨m, e⟩) h2)

theorem exec_rasterInv {i : Instr} {s t : State} (h : exec i s = .next t) (hs : RasterInv s) : RasterInv t := by
  have hc := (configurationNeverChanges i s t h).1
  obtain ⟨h, hw⟩ := exec_effective h
  cases hi : isHostOp (effective i) with
  | true => exact exec_host_rasterInv hi h hs
  | false => exact (exec_videoEffect hi hw h).1.rasterInv hc hs

/-! ### Reset in a legal configuration -/

section
variable {c : Cfg} (hc : c.legal = true)
include hc

/-- MODE is 0 at reset, and a legal configuration has a profile (R7; log 5). -/
theorem configOk_resetWith : ConfigOk (State.resetWith c) := by
  have hne : c.profiles.isEmpty = false := by
    have hl := hc
    simp only [Cfg.legal, Bool.and_eq_true, Bool.not_eq_true'] at hl
    tauto
  exact ⟨hc, show 0 < c.profiles.length from List.length_pos_iff.mpr (by simpa using hne)⟩

theorem rasterInv_resetWith : RasterInv (State.resetWith c) := rasterInv_of_line_zero (configOk_resetWith hc) rfl rfl rfl

theorem queueInv_resetWith : QueueInv (State.resetWith c) := queueInv_of_empty hc (queueSlots_pos c) rfl

theorem debounceInv_resetWith : DebounceInv (State.resetWith c) := by
  refine (debounceInv_iff _).mpr ⟨hc, List.length_replicate, fun k hk => ?_⟩
  rw [List.eq_of_mem_replicate hk]
  exact KeyState.inRange_idle c

theorem serialiserInv_resetWith : SerialiserInv (State.resetWith c) := serialiserInv_of_idle (configOk_resetWith hc) rfl

/-- No Init has run and no enable is 1, so nothing is asked of RM. -/
theorem memoInv_resetWith : MemoInv (State.resetWith c) :=
  ⟨hc, fun h => absurd h Bool.false_ne_true, fun h => absurd h Bool.false_ne_true, fun _ h => absurd h Bool.false_ne_true⟩

end

/-- The configuration of log 1 is legal (R7). -/
theorem default_legal : Config.default.legal = true := by decide +kernel

/-! ### What reset leaves disabled -/

section
variable {s : State}

theorem displayStep_of_stopped (h : s.video.dispEn = false) (k : Answer) : ∃ r, displayStep s k = .refused r := by
  unfold displayStep
  split
  · exact ⟨_, rfl⟩
  · exact ⟨_, if_pos (by simp [h])⟩

theorem execSerRead_of_idle (h : s.video.ser.busy = false) : ∃ r, execSerRead s = .refused r := by
  unfold execSerRead
  split
  · exact ⟨_, rfl⟩
  · exact ⟨_, if_pos (by simp [h])⟩

theorem execKeyTick_of_stopped (h : s.keys.keyEn = false) : ∃ r, execKeyTick s = .refused r := by
  unfold execKeyTick
  split
  · exact ⟨_, rfl⟩
  · exact ⟨_, if_pos (by simp [h])⟩

end

/-- No byte of a writable space holds a value after reset (log 8). -/
theorem memRead_resetWith (c : Cfg) {sp : Space} (h : sp ≠ .fn) (a : Nat) : memRead (State.resetWith c) sp a = none := by
  cases sp with
  | fb | atr | qb | rm => rfl
  | fn => exact absurd rfl h

end Sys2Proof.Machine

/-! ### The statements -/

section
open Sys2Proof Sys2Proof.Machine

/-- Settles O53: TICK advances SL inside the frame and takes its request, a line's action sets VSYNC_OUT by the line's class, and
apart from them only DispInit and DispTerm write MODE, SL, VSYNC_OUT, TICK_PEND or DISP_EN. -/
theorem stepKeepsTheRaster : Obligations.StepKeepsTheRaster := by
  intro s t hs h
  obtain ⟨i, rest, -, h⟩ := step_next h
  exact exec_rasterInv h (hs.congr (by simp) (by simp))

/-- Settles O58: each invariant holds after reset in any legal configuration, and that of log 1 is legal. -/
theorem resetMeetsTheInvariants : Obligations.ResetMeetsTheInvariants :=
  ⟨reset_mem_wf, rasterInv_resetWith default_legal, queueInv_resetWith default_legal, debounceInv_resetWith default_legal,
    serialiserInv_resetWith default_legal, memoInv_resetWith default_legal⟩

/-- Settles O59: the registers by the definition of reset; each of the three steps is refused by the enable it asks for, in any
role the chip may have. -/
theorem resetValues : Obligations.ResetValues := by
  intro c
  have hdisabled (i : Instr) (hi : i = .tick ∨ i = .serRead ∨ i = .keyTick) :
      ∃ r, exec i (State.resetWith c) = .refused r := by
    obtain rfl | rfl | rfl := hi
    · exact displayStep_of_stopped rfl _
    · exact execSerRead_of_idle rfl
    · exact execKeyTick_of_stopped rfl
  refine ⟨rfl, rfl, rfl, rfl, rfl, rfl, rfl, rfl, rfl, rfl, fun sp a h => memRead_resetWith c h a, fun a => rfl, hdisabled,
    fun h => if_pos h, fun h => if_neg (by simp [h])⟩

end
end
